-- ==== Sys2Proof/Word.lean ====
section
/-! DEFINITION. The one word type of the block: the bus sample, the framed byte, the device bytes and the outgoing
byte are all 8 bits wide (spec 00_scope.md R8, 20_memory.md R36). Bit 0 is the least significant bit (R9). A single
signal level is a `Bool`: `true` is 1, `false` is 0. -/

namespace Sys2Proof

/-- An 8-bit value, unsigned (R8, R9). -/
abbrev Byte := BitVec 8

end Sys2Proof
end

