-- ==== Sys2Proof/Syntax.lean ====
section
/-! DEFINITION. Devices, select classes, the host's calls, and `Instr`: one constructor per row of
spec/opcode_table.json (30_encoding.md R45, R46). -/

namespace Sys2Proof

/-- The three devices on the bus (R11, R104). -/
inductive Device where
  | sdCard
  | keyboard
  | rtc
deriving DecidableEq, Repr

/-- `Sel = {None, SDCard, Keyboard, RTC}` (R12, R14): the device addressed, or none. -/
abbrev Sel := Option Device

/-- The eight classes of the select field (R45). A class with one line asserted is named by the device that line
addresses; the others by the lines asserted. -/
inductive SelClass where
  | one (d : Device)
  | noLine
  | lines12
  | lines13
  | lines23
  | lines123
deriving DecidableEq, Repr

/-- The fields of a sample that its class leaves free (R43): the letters L, M, C, W, U. -/
structure SampleFields where
  /-- L: the clock level. -/
  clk : Bool
  /-- M: the data-out-to-device level. -/
  mosi : Bool
  /-- C: card-detect, read by no rule (R48). -/
  cardDetect : Bool
  /-- W: write-protect, read by no rule (R48). -/
  writeProtect : Bool
  /-- U: unused, read by no rule (R48). -/
  unused : Bool
deriving DecidableEq, Repr

/-- What the host may do to the block, one call at a time (R46, R95). -/
inductive HostCall where
  /-- Start a session (R93). -/
  | reset
  /-- One bus tick with a sample (R90). -/
  | step (sample : Byte)
  /-- Hand over one translated key byte (R94). -/
  | kbdPush (b : Byte)
deriving DecidableEq, Repr

/-- The 22 rows of the opcode table. A sub-operation that reads the sample carries it; every other operand of a
sub-operation is in the state (R10: "a function of the state and the sample"). -/
inductive Instr where
  -- the eight sample classes (R45): one STEP whose sample has that select field
  | sampleSelSd (f : SampleFields)
  | sampleSelKbd (f : SampleFields)
  | sampleSelRtc (f : SampleFields)
  | sampleSelNone (f : SampleFields)
  | sampleSelMulti12 (f : SampleFields)
  | sampleSelMulti13 (f : SampleFields)
  | sampleSelMulti23 (f : SampleFields)
  | sampleSelMulti123 (f : SampleFields)
  -- the host operations
  | reset
  | step (sample : Byte)
  | kbdPush (b : Byte)
  -- the sub-operations of one step
  | edgeDetect (sample : Byte)
  | selectDecode (sample : Byte)
  | selectTransition
  | handshakeCount
  | handshakeComplete
  | frameBit (sample : Byte)
  | byteComplete
  | exchangeSd (bIn : Byte)
  | exchangeKbd (bIn : Byte)
  | exchangeRtc (bIn : Byte)
  | outLatch (bOut : Byte)
deriving DecidableEq, Repr

/-- The "format" column of the opcode table. -/
inductive Format where
  | sample8
  | hostCall
  | subOperation
deriving DecidableEq, Repr

/-- Each row's format. -/
def Instr.format : Instr → Format
  | .sampleSelSd _ => .sample8
  | .sampleSelKbd _ => .sample8
  | .sampleSelRtc _ => .sample8
  | .sampleSelNone _ => .sample8
  | .sampleSelMulti12 _ => .sample8
  | .sampleSelMulti13 _ => .sample8
  | .sampleSelMulti23 _ => .sample8
  | .sampleSelMulti123 _ => .sample8
  | .reset => .hostCall
  | .step _ => .hostCall
  | .kbdPush _ => .hostCall
  | .edgeDetect _ => .subOperation
  | .selectDecode _ => .subOperation
  | .selectTransition => .subOperation
  | .handshakeCount => .subOperation
  | .handshakeComplete => .subOperation
  | .frameBit _ => .subOperation
  | .byteComplete => .subOperation
  | .exchangeSd _ => .subOperation
  | .exchangeKbd _ => .subOperation
  | .exchangeRtc _ => .subOperation
  | .outLatch _ => .subOperation

end Sys2Proof
end

