-- ==== Sys2Proof/Config.lean ====
section
/-! DEFINITION. The configuration record `Cfg` (00_scope.md R7), the events of the trace (10_state.md
R21) and the free values: the answers of the external devices (44_byte_exchanger_mux.md R87) and the choice of R85. -/

namespace Sys2Proof

/-- The fields of `Cfg` as plain data, before the checks of R7. -/
structure CfgFields where
  clkBit : Fin 8
  sel1Bit : Fin 8
  sel2Bit : Fin 8
  sel3Bit : Fin 8
  unusedBit : Fin 8
  wpBit : Fin 8
  cdBit : Fin 8
  mosiBit : Fin 8
  /-- `SEL_DEVICE(line1)`. -/
  line1Device : Device
  /-- `SEL_DEVICE(line2)`. -/
  line2Device : Device
  /-- `SEL_DEVICE(line3)`. -/
  line3Device : Device
  /-- `SEL_ACTIVE_LOW`. -/
  selActiveLow : Bool
  /-- `HANDSHAKE_THRESHOLD`. -/
  handshakeThreshold : Nat
  /-- `RTC_DESELECT_NOTIFY`. -/
  rtcDeselectNotify : Bool
  /-- `KBD_NO_KEY`. -/
  kbdNoKey : Byte
  /-- `HANDSHAKE_SETS_SELECTION`. -/
  handshakeSetsSelection : Bool
deriving DecidableEq, Repr

/-- The eight bit indices, in the order of R43's listing of the signals. -/
def CfgFields.bits (f : CfgFields) : List (Fin 8) :=
  [f.clkBit, f.sel1Bit, f.sel2Bit, f.sel3Bit, f.unusedBit, f.wpBit, f.cdBit, f.mosiBit]

/-- "The eight bit indices are pairwise distinct" (R7). -/
def CfgFields.bitsDistinct (f : CfgFields) : Bool := decide f.bits.Nodup

/-- `SEL_DEVICE` is a bijection of the three lines to the three devices (R7). -/
def CfgFields.linesDistinct (f : CfgFields) : Bool :=
  decide [f.line1Device, f.line2Device, f.line3Device].Nodup

/-- "`HANDSHAKE_THRESHOLD` is at least 1" (R7, decision D4). -/
def CfgFields.thresholdPositive (f : CfgFields) : Bool := decide (1 ≤ f.handshakeThreshold)

/-- Everything R7 asks of a configuration. -/
def CfgFields.wf (f : CfgFields) : Bool := f.bitsDistinct && f.linesDistinct && f.thresholdPositive

/-- A configuration carries its well-formedness, so that a refused one (93_implementation_defined.md items 17, 18)
does not exist. -/
structure Cfg extends CfgFields where
  wf : toCfgFields.wf = true
deriving DecidableEq, Repr

/-- The configuration with the given fields, or nothing where the spec refuses them. -/
def Cfg.ofFields? (f : CfgFields) : Option Cfg :=
  if h : f.wf = true then some ⟨f, h⟩ else none

/-- The events of the trace (R21). -/
inductive Event where
  /-- Device d's `select()` notification; only the SD card and the RTC get one. -/
  | select (d : Device)
  /-- The keyboard resets its internal cursor, on its selection. -/
  | kbdCursorReset
  /-- Device d's `deselect()` notification; only the RTC gets one. -/
  | deselect (d : Device)
  /-- Device d's `exchange(bIn)`, which returned `bOut`. -/
  | exchange (d : Device) (bIn bOut : Byte)
  /-- The push of a byte to the external shift-register sink. -/
  | setOutByte (v : Byte)
deriving DecidableEq, Repr

/-- FREE VALUE (R87, decision D14; log entry 3): the byte the external device `d` answers to `bIn`, after the events
`history`, at draw number `draw` of the run. It has no body: nothing is known of any answer. -/
opaque Config.deviceAnswer (d : Device) (bIn : Byte) (history : List Event) (draw : Nat) : Byte

/-- FREE VALUE (R85, decision D12; log entry 4): whether a keyboard exchange that pops the key byte 0x00 returns
0x00 (true) or the no-key byte (false). -/
opaque Config.zeroKeyReadsZero (history : List Event) (draw : Nat) : Bool

end Sys2Proof
end

