-- ==== Sys2Proof/WellFormed.lean ====
section
/-! DEFINITION. What is well-formed: an instruction the host may issue (a sample or a host operation; "the
sub-operations are not selected by an opcode", 30_encoding.md R46) and a run (45_step_and_host.md R96). The checks of
a configuration (R7) stand in Config.lean, because a `Cfg` carries them. -/

namespace Sys2Proof

/-- Whether the host may issue the instruction: every sample class and host operation, and no sub-operation
(R46, R95). -/
def Instr.hostIssuable (i : Instr) : Bool :=
  match i.format with
  | .sample8 => true
  | .hostCall => true
  | .subOperation => false

/-- "A run is a finite list of host operations that starts with `RESET`" (R96; R95: the host calls `RESET` before the
first `STEP`). -/
def runWellFormed (calls : List HostCall) : Bool := calls.head? == some .reset

end Sys2Proof
end

