-- ==== Sys2Proof/Decode.lean ====
section
/-! DEFINITION. The decoder and encoder of the bus sample (30_encoding.md R43–R49). Every one of the 256 samples is
legal (R47), so decoding a sample is total and refuses nothing; a word that is not one 8-bit sample is refused by
name (R49). The host operations and the sub-operations have no word (the table's match is null). -/

namespace Sys2Proof

/-! ### The default configuration, for which the table's words are given (R7) -/

/-- The default of every field (R7; UNVERIFIED against the emulator's wiring, log entry 7). -/
def CfgFields.default : CfgFields where
  clkBit := 0
  sel1Bit := 1
  sel2Bit := 2
  sel3Bit := 3
  unusedBit := 4
  wpBit := 5
  cdBit := 6
  mosiBit := 7
  line1Device := .sdCard
  line2Device := .keyboard
  line3Device := .rtc
  selActiveLow := true
  handshakeThreshold := 74
  rtcDeselectNotify := true
  kbdNoKey := 0xFF#8
  handshakeSetsSelection := true

/-- The default configuration (R7). -/
def Cfg.default : Cfg := ⟨CfgFields.default, by decide⟩

/-! ### Field extraction (R44) -/

/-- `s[i]`: the level at bit i of the sample. -/
def level (w : Byte) (i : Fin 8) : Bool := w.getLsbD i

/-- `asserted(x)`: low when `SEL_ACTIVE_LOW`, else high (R44). -/
def asserted (c : Cfg) (x : Bool) : Bool := if c.selActiveLow then !x else x

/-- Select line 1 is asserted in the sample. -/
def line1Asserted (c : Cfg) (w : Byte) : Bool := asserted c (level w c.sel1Bit)

/-- Select line 2 is asserted in the sample. -/
def line2Asserted (c : Cfg) (w : Byte) : Bool := asserted c (level w c.sel2Bit)

/-- Select line 3 is asserted in the sample. -/
def line3Asserted (c : Cfg) (w : Byte) : Bool := asserted c (level w c.sel3Bit)

/-- The fields of the sample other than the select lines (R43). -/
def sampleFields (c : Cfg) (w : Byte) : SampleFields where
  clk := level w c.clkBit
  mosi := level w c.mosiBit
  cardDetect := level w c.cdBit
  writeProtect := level w c.wpBit
  unused := level w c.unusedBit

/-! ### The select classes (R45) -/

/-- The class of a select field, by which lines are asserted (the rows of R45's table). With another line-to-device
map a one-line class is named by the device of its line (DEDUCED, log entry 8). -/
def classOfLines (c : Cfg) (a1 a2 a3 : Bool) : SelClass :=
  match a1, a2, a3 with
  | true, false, false => .one c.line1Device
  | false, true, false => .one c.line2Device
  | false, false, true => .one c.line3Device
  | false, false, false => .noLine
  | true, true, false => .lines12
  | true, false, true => .lines13
  | false, true, true => .lines23
  | true, true, true => .lines123

/-- The class of a sample. -/
def sampleClass (c : Cfg) (w : Byte) : SelClass :=
  classOfLines c (line1Asserted c w) (line2Asserted c w) (line3Asserted c w)

/-- The device a class decodes to (R45, column "decoded device"). -/
def SelClass.device : SelClass → Sel
  | .one d => some d
  | .noLine => none
  | .lines12 => none
  | .lines13 => none
  | .lines23 => none
  | .lines123 => none

/-- The row of the opcode table for a class. -/
def instrOfClass : SelClass → SampleFields → Instr
  | .one .sdCard, f => .sampleSelSd f
  | .one .keyboard, f => .sampleSelKbd f
  | .one .rtc, f => .sampleSelRtc f
  | .noLine, f => .sampleSelNone f
  | .lines12, f => .sampleSelMulti12 f
  | .lines13, f => .sampleSelMulti13 f
  | .lines23, f => .sampleSelMulti23 f
  | .lines123, f => .sampleSelMulti123 f

/-- The instruction a sample is. -/
def decodeSample (c : Cfg) (w : Byte) : Instr := instrOfClass (sampleClass c w) (sampleFields c w)

/-- The instruction a host call is: a `STEP` call runs the class its sample decodes to. -/
def decodeCall (c : Cfg) : HostCall → Instr
  | .reset => .reset
  | .step w => decodeSample c w
  | .kbdPush b => .kbdPush b

/-! ### Decoding bits of any length -/

/-- Why bits are no instruction. -/
inductive DecodeError where
  /-- "Every step consumes exactly one 8-bit sample" (R49): the bits are not eight. -/
  | notOneSample (nbits : Nat)
  /-- The number has a bit above the word's length. -/
  | bitsAboveWord
deriving DecidableEq, Repr

/-- The decoder on a word of any length. -/
def decodeBits (c : Cfg) (nbits w : Nat) : Except DecodeError Instr :=
  if nbits = 8 then
    if w < 256 then .ok (decodeSample c (BitVec.ofNat 8 w)) else .error .bitsAboveWord
  else .error (.notOneSample nbits)

/-- The host's question: the instruction of a table word, under the default `Cfg` (the table's words are given for
it). The one word of an instruction is its first and last byte. -/
def decodeTableWord (nbits w : Nat) : Option Instr :=
  match decodeBits Cfg.default nbits w with
  | .ok i => some i
  | .error _ => none

/-! ### The encoder, written from R43 and R45 -/

/-- A word with level `x` at bit `i` and 0 elsewhere: `x << i` (R50). -/
def place (i : Fin 8) (x : Bool) : Byte := (if x then 1#8 else 0#8) <<< i.val

/-- The level a select line has when it is, or is not, asserted (the inverse of `asserted`). -/
def lineLevel (c : Cfg) (isAsserted : Bool) : Bool := if c.selActiveLow then !isAsserted else isAsserted

/-- Whether line 1 is asserted in a class. -/
def SelClass.asserts1 (c : Cfg) : SelClass → Bool
  | .one d => decide (c.line1Device = d)
  | .noLine => false
  | .lines12 => true
  | .lines13 => true
  | .lines23 => false
  | .lines123 => true

/-- Whether line 2 is asserted in a class. -/
def SelClass.asserts2 (c : Cfg) : SelClass → Bool
  | .one d => decide (c.line2Device = d)
  | .noLine => false
  | .lines12 => true
  | .lines13 => false
  | .lines23 => true
  | .lines123 => true

/-- Whether line 3 is asserted in a class. -/
def SelClass.asserts3 (c : Cfg) : SelClass → Bool
  | .one d => decide (c.line3Device = d)
  | .noLine => false
  | .lines12 => false
  | .lines13 => true
  | .lines23 => true
  | .lines123 => true

/-- The select field of a class: the three lines' levels in place (R45; R50's `sel(d)`). -/
def selectField (c : Cfg) (k : SelClass) : Byte :=
  place c.sel1Bit (lineLevel c (k.asserts1 c)) ||| place c.sel2Bit (lineLevel c (k.asserts2 c)) |||
    place c.sel3Bit (lineLevel c (k.asserts3 c))

/-- The other five signals in place. -/
def fieldBits (c : Cfg) (f : SampleFields) : Byte :=
  place c.clkBit f.clk ||| place c.mosiBit f.mosi ||| place c.cdBit f.cardDetect |||
    place c.wpBit f.writeProtect ||| place c.unusedBit f.unused

/-- The sample word of a class and its fields. -/
def encodeClass (c : Cfg) (k : SelClass) (f : SampleFields) : Byte := selectField c k ||| fieldBits c f

/-- The word of an instruction; only the sample classes have one (log entry 12). -/
def encode (c : Cfg) : Instr → Option Byte
  | .sampleSelSd f => some (encodeClass c (.one .sdCard) f)
  | .sampleSelKbd f => some (encodeClass c (.one .keyboard) f)
  | .sampleSelRtc f => some (encodeClass c (.one .rtc) f)
  | .sampleSelNone f => some (encodeClass c .noLine f)
  | .sampleSelMulti12 f => some (encodeClass c .lines12 f)
  | .sampleSelMulti13 f => some (encodeClass c .lines13 f)
  | .sampleSelMulti23 f => some (encodeClass c .lines23 f)
  | .sampleSelMulti123 f => some (encodeClass c .lines123 f)
  | .reset => none
  | .step _ => none
  | .kbdPush _ => none
  | .edgeDetect _ => none
  | .selectDecode _ => none
  | .selectTransition => none
  | .handshakeCount => none
  | .handshakeComplete => none
  | .frameBit _ => none
  | .byteComplete => none
  | .exchangeSd _ => none
  | .exchangeKbd _ => none
  | .exchangeRtc _ => none
  | .outLatch _ => none

end Sys2Proof
end

