-- ==== Sys2Proof/Machine/BusState.lean ====
section
/-! DEFINITION. The two records State is made of: the Bus State (10_state.md R12–R21) with its values at session start
(R29), and the values within a step (R25). -/

namespace Sys2Proof.Machine

/-- The Bus State: one record per session (R12). -/
structure BusState where
  /-- `prev_clock`, the last observed clock level (R13). -/
  prevClock : Bool
  /-- `selected_device` (R14). -/
  selectedDevice : Sel
  /-- `initialized`, the one-way flag (R15). -/
  initialized : Bool
  /-- `handshake_edge_count` (R16; a natural number, decision D19). -/
  handshakeEdgeCount : Nat
  /-- `in_byte_accumulator` (R17). -/
  inByteAccumulator : Byte
  /-- `bit_count`, 0..7 between steps (R18). -/
  bitCount : Fin 8
  /-- `out_byte_register`, unwritten until the first byte completes (R19). -/
  outByteRegister : Option Byte
  /-- `kbd_slot`, the keyboard's pending byte or empty (R20). -/
  kbdSlot : Option Byte
  /-- `trace`, oldest event first (R21). -/
  trace : List Event
deriving DecidableEq, Repr

/-- The values one sub-operation of a step hands to the next. They "are not stored across steps" (R25): a host call
leaves them idle (log entry 5). -/
structure StepValues where
  /-- `Rising` (true) or `None` (false), from EDGE_DETECT (R52). -/
  rising : Bool
  /-- `dev`, from SELECT_DECODE (R58). -/
  dev : Sel
  /-- `just_selected`, from SELECT_TRANSITION (R60). -/
  justSelected : Bool
  /-- `just_deselected_device`, from SELECT_TRANSITION (R60). -/
  justDeselected : Option Device
  /-- `consumed`, from HANDSHAKE_COUNT (R68). -/
  consumed : Bool
  /-- The byte returned by the bit framer, or nothing (R74, R76). -/
  completed : Option Byte
  /-- `b_out` of the last exchange branch (R82–R86), or nothing. -/
  byteOut : Option Byte
deriving DecidableEq, Repr

/-- The Bus State at session start (R29). -/
def BusState.reset : BusState where
  prevClock := false
  selectedDevice := none
  initialized := false
  handshakeEdgeCount := 0
  inByteAccumulator := 0x00#8
  bitCount := 0
  outByteRegister := none
  kbdSlot := none
  trace := []

/-- The per-step values outside a step (R25; log entry 5). -/
def StepValues.idle : StepValues where
  rising := false
  dev := none
  justSelected := false
  justDeselected := none
  consumed := false
  completed := none
  byteOut := none

end Sys2Proof.Machine
end

