-- ==== Sys2Proof/Machine/State.lean ====
section
/-! DEFINITION. The state of the machine (10_state.md R12–R21), its value after reset (R29), and the reasons a step
can stop. The block has no memory (20_memory.md R30), no register file (R23) and no program counter (R24), so State
holds none. -/

namespace Sys2Proof.Machine

/-- Why the machine faults. Both are faults the spec asks a model for; neither can happen in a host call. -/
inductive Fault where
  /-- Raised by BYTE_COMPLETE run by itself in a state with no device selected: an exchange reached with
  `selected_device == None` (93_implementation_defined.md item 19; R82). Safe: the machine stops. -/
  | exchangeWithNoDevice
  /-- Raised by `readOutByte`, the external sink's read, before any byte completed, and by no instruction: the spec
  names this fault (93_implementation_defined.md item 20; R19). Safe: no value is given. -/
  | outByteUnwritten
deriving DecidableEq, Repr

/-- Why the model has no meaning for an instruction. -/
inductive Refusal where
  /-- Raised by an arm of exec whose instruction has no meaning yet; no arm does so now. Safe: the machine stops. -/
  | notModelled (mnemonic : String)
deriving DecidableEq, Repr

/-- The machine. -/
structure State where
  /-- The configuration: a parameter of every step, changed by none (R12, R26; log entry 1). -/
  cfg : Cfg
  /-- The Bus State (R12). -/
  bus : BusState
  /-- The values within a step (R25; log entry 5). -/
  wires : StepValues
  /-- MODEL'S OWN: the host calls still to be made, next one first (R46, R96; log entry 2). -/
  inbox : List HostCall
  /-- MODEL'S OWN: how many free values have been drawn (R85, R87; log entry 3). -/
  draws : Nat
deriving DecidableEq, Repr

/-- A session's start under any configuration, any list of calls to come and any draw number. -/
def State.start (c : Cfg) (calls : List HostCall) (draws : Nat) : State where
  cfg := c
  bus := BusState.reset
  wires := StepValues.idle
  inbox := calls
  draws := draws

/-- The machine right after reset, under the default configuration and with no call made yet (R29, R7). -/
def State.reset : State := State.start Cfg.default [] 0

/-- What a meaning answers. -/
abbrev Result := Host.Outcome State Fault Refusal

end Sys2Proof.Machine
end

