-- ==== Sys2Proof/Machine/Flags.lean ====
section
/-! DEFINITION. The block's flags. It has no condition-code register (10_state.md R25): its flags are the edge
indication and the selection results of one step. -/

namespace Sys2Proof.Machine

/-- Rising iff the previous clock bit was 0 and the current one is 1 (R52). -/
def isRisingEdge (prevClock clk : Bool) : Bool := !prevClock && clk

/-- `just_selected` of a transition to `dev` (R60). -/
def justSelectedOn (dev : Sel) : Bool := dev.isSome

/-- `just_deselected_device` of a transition from `old` (R60). -/
def justDeselectedOn (old : Sel) : Option Device := old

/-- The gate of the bit framer (R74): a rising edge the handshake did not consume, after initialization, with a
device selected (DEDUCED: R75's own text leaves `consumed` to R74 and R70; log entry 17). -/
def framerGate (s : State) : Bool :=
  s.wires.rising && !s.wires.consumed && s.bus.initialized && s.bus.selectedDevice.isSome

end Sys2Proof.Machine
end

