-- ==== Sys2Proof/Machine/Ops.lean ====
section
/-! DEFINITION. The named operations over the state that the meanings share: appending events, resetting the framing
state, the per-step values, taking the next host call, the external sink's read. The block raises no exception and
returns from none (60_exceptions.md R97, R101), so there is no exception entry to share. -/

namespace Sys2Proof.Machine

/-- `emit E`, for each event in order (00_scope.md R10). -/
def emitAll (es : List Event) (s : State) : State :=
  { s with bus := { s.bus with trace := s.bus.trace ++ es } }

/-- `st.bit_count <- 0; st.in_byte_accumulator <- 0x00`: the framing reset (R60, R63, R69). -/
def resetFraming (s : State) : State :=
  { s with bus := { s.bus with bitCount := 0, inByteAccumulator := 0x00#8 } }

/-- `st.selected_device <- dev` (R60, R69). -/
def setSelected (dev : Sel) (s : State) : State :=
  { s with bus := { s.bus with selectedDevice := dev } }

/-- No per-step value is held outside a step (R25). -/
def clearStepValues (s : State) : State := { s with wires := StepValues.idle }

/-- Go on with `f` after a next state; a stop stays a stop. -/
def andThen (o : Result) (f : State → State) : Result :=
  match o with
  | .next t => .next (f t)
  | .fault r => .fault r
  | .refused r => .refused r

/-- The next host call as an instruction, and the state with the call taken from the inbox (R39: calls are made in
order); nothing when the host makes no call (R24, R107). -/
def fetch (s : State) : Option (Instr × State) :=
  match s.inbox with
  | [] => none
  | call :: rest => some (decodeCall s.cfg call, { s with inbox := rest })

/-- The state with a `STEP` call of the sample `w` placed before the calls to come. -/
def placeSample (w : Byte) (s : State) : State := { s with inbox := .step w :: s.inbox }

/-- The external sink's read of `out_byte_register` (R19, R88): the last byte latched. Before any byte completed it is
the fault that 93_implementation_defined.md item 20 names ("it must not get a value"). The read changes nothing, and no
instruction and no step makes it (log entry 11). -/
def readOutByte (s : State) : Except Fault Byte :=
  match s.bus.outByteRegister with
  | some v => .ok v
  | none => .error .outByteUnwritten

end Sys2Proof.Machine
end

