-- ==== Sys2Proof/Machine/ByteExchanger.lean ====
section
/-! DEFINITION. The byte exchanger mux (44_byte_exchanger_mux.md): the three branches, the exchange and the latch. -/

namespace Sys2Proof.Machine

/-- `DeviceExchange(d, bIn)`: the next answer of the external device, a free value (R87). -/
def externalAnswer (d : Device) (bIn : Byte) (s : State) : Byte :=
  Config.deviceAnswer d bIn s.bus.trace s.draws

/-- An exchange with an external device: one draw, whose answer is the step's `b_out`; nothing of the Bus State is
written (R83, R86). -/
def externalExchange (d : Device) (bIn : Byte) (s : State) : State :=
  { s with draws := s.draws + 1, wires := { s.wires with byteOut := some (externalAnswer d bIn s) } }

/-- What the keyboard returns: the pending byte, or `KBD_NO_KEY` when none is pending (R84); for a pending 0x00 a
free choice between 0x00 and `KBD_NO_KEY` (R85). -/
def keyboardAnswer (s : State) : Byte :=
  match s.bus.kbdSlot with
  | none => s.cfg.kbdNoKey
  | some k =>
    if k = 0x00#8 then
      if Config.zeroKeyReadsZero s.bus.trace s.draws then 0x00#8 else s.cfg.kbdNoKey
    else k

/-- An exchange with the keyboard: its answer is the step's `b_out`, and the slot is popped (R84, R85). -/
def keyboardExchange (s : State) : State :=
  { s with
    draws := if s.bus.kbdSlot = some 0x00#8 then s.draws + 1 else s.draws
    wires := { s.wires with byteOut := some (keyboardAnswer s) }
    bus := { s.bus with kbdSlot := none } }

/-- EXCHANGE_SD (R83). -/
def execExchangeSd (bIn : Byte) (s : State) : Result := .next (externalExchange .sdCard bIn s)

/-- EXCHANGE_KBD (R84): "ignores `byte_in` entirely". -/
def execExchangeKbd (_bIn : Byte) (s : State) : Result := .next (keyboardExchange s)

/-- EXCHANGE_RTC (R86). -/
def execExchangeRtc (bIn : Byte) (s : State) : Result := .next (externalExchange .rtc bIn s)

/-- Latch the response and push it to the sink, also when it repeats the last one (R88, decision D21). -/
def latchOut (bOut : Byte) (s : State) : State :=
  emitAll [.setOutByte bOut] { s with bus := { s.bus with outByteRegister := some bOut } }

/-- OUT_LATCH (R88). -/
def execOutLatch (bOut : Byte) (s : State) : Result := .next (latchOut bOut s)

/-- The byte the selected device returns (R82). -/
def answerOf (d : Device) (bIn : Byte) (s : State) : Byte :=
  match d with
  | .sdCard => externalAnswer .sdCard bIn s
  | .keyboard => keyboardAnswer s
  | .rtc => externalAnswer .rtc bIn s

/-- The branch of the mux for a device (R82). -/
def branchOf (d : Device) (bIn : Byte) (s : State) : State :=
  match d with
  | .sdCard => externalExchange .sdCard bIn s
  | .keyboard => keyboardExchange s
  | .rtc => externalExchange .rtc bIn s

/-- `EXCHANGE(dev, bIn)` with the selected device (R82): the branch, then `emit Exchange`, then the latch. With no
device selected it is the model fault the spec asks for (93_implementation_defined.md item 19). -/
def exchange (bIn : Byte) (s : State) : Result :=
  match s.bus.selectedDevice with
  | none => .fault .exchangeWithNoDevice
  | some d =>
    let bOut := answerOf d bIn s
    .next (latchOut bOut (emitAll [.exchange d bIn bOut] (branchOf d bIn s)))

end Sys2Proof.Machine
end

