-- ==== Sys2Proof/Machine/Operands.lean ====
section
/-! DEFINITION. The operands a step takes from its sample (30_encoding.md R44) and the select decode
(41_chip_select_fsm.md R58). -/

namespace Sys2Proof.Machine

/-- `clk = s[CLK_BIT]` (R44). -/
def clkOf (c : Cfg) (w : Byte) : Bool := level w c.clkBit

/-- `mosi = s[MOSI_BIT]` (R44). -/
def mosiOf (c : Cfg) (w : Byte) : Bool := level w c.mosiBit

/-- The devices whose line is asserted in the sample, line 1 first (R58). -/
def assertedDevices (c : Cfg) (w : Byte) : List Device :=
  (if line1Asserted c w then [c.line1Device] else []) ++
    (if line2Asserted c w then [c.line2Device] else []) ++
    (if line3Asserted c w then [c.line3Device] else [])

/-- `dev`: the one device addressed, or None when no line or more than one is asserted (R58). -/
def decodeDevice (c : Cfg) (w : Byte) : Sel :=
  match assertedDevices c w with
  | [d] => some d
  | _ => none

end Sys2Proof.Machine
end

