-- ==== Sys2Proof/Machine/BitFramer.lean ====
section
/-! DEFINITION. The bit framer shift register (43_bit_framer_shift_register.md). -/

namespace Sys2Proof.Machine

/-- `((acc << 1) mod 256) | mosi`: most significant bit first (R75). -/
def shiftIn (acc : Byte) (mosi : Bool) : Byte := (acc <<< 1) ||| (if mosi then 1#8 else 0#8)

/-- The finished byte is taken and exchanged; the accumulator keeps it (R76). -/
def completeByte (s : State) : Result :=
  let byte := s.bus.inByteAccumulator
  exchange byte { s with bus := { s.bus with bitCount := 0 }, wires := { s.wires with completed := some byte } }

/-- BYTE_COMPLETE (R76). -/
def execByteComplete (s : State) : Result := completeByte s

/-- Shift one data bit in when the gate is open; the eighth completes the byte (R74, R75). -/
def frame (mosi : Bool) (s : State) : Result :=
  if framerGate s = true then
    let shifted : State := { s with bus := { s.bus with inByteAccumulator := shiftIn s.bus.inByteAccumulator mosi } }
    if h : s.bus.bitCount.val + 1 < 8 then
      .next { shifted with
        bus := { shifted.bus with bitCount := ⟨s.bus.bitCount.val + 1, h⟩ }
        wires := { shifted.wires with completed := none } }
    else
      completeByte { shifted with bus := { shifted.bus with bitCount := 0 } }
  else
    .next { s with wires := { s.wires with completed := none } }

/-- FRAME_BIT (R75): field M of the sample whose clock makes the edge (R78, decision D9). -/
def execFrameBit (sample : Byte) (s : State) : Result := frame (mosiOf s.cfg sample) s

end Sys2Proof.Machine
end

