-- ==== Sys2Proof/Machine/ChipSelect.lean ====
section
/-! DEFINITION. The chip-select FSM (41_chip_select_fsm.md). -/

namespace Sys2Proof.Machine

/-- The decoded device as the step's `dev` (R58). -/
def setDecoded (dev : Sel) (s : State) : State := { s with wires := { s.wires with dev := dev } }

/-- SELECT_DECODE (R58): fields S, K, R of the sample; no field of the Bus State is written. -/
def execSelectDecode (sample : Byte) (s : State) : Result := .next (setDecoded (decodeDevice s.cfg sample) s)

/-- `notify_deselect(old)` (R61). -/
def deselectEvents (c : Cfg) (old : Sel) : List Event :=
  if old = some .rtc ∧ c.rtcDeselectNotify = true then [.deselect .rtc] else []

/-- `notify_select(dev)` (R62); the keyboard's cursor reset does not touch `kbd_slot` (decision D11). -/
def selectEvents : Sel → List Event
  | some .sdCard => [.select .sdCard]
  | some .rtc => [.select .rtc]
  | some .keyboard => [.kbdCursorReset]
  | none => []

/-- A change of the decoded device notifies (deselect first, decision D10), resets framing and records the device;
otherwise nothing changes (R60, R63). -/
def transition (s : State) : State :=
  let old := s.bus.selectedDevice
  let dev := s.wires.dev
  if dev ≠ old then
    let notified := emitAll (selectEvents dev) (emitAll (deselectEvents s.cfg old) s)
    let moved := setSelected dev (resetFraming notified)
    { moved with
      wires := { moved.wires with justSelected := justSelectedOn dev, justDeselected := justDeselectedOn old } }
  else
    { s with wires := { s.wires with justSelected := false, justDeselected := none } }

/-- SELECT_TRANSITION (R60). -/
def execSelectTransition (s : State) : Result := .next (transition s)

end Sys2Proof.Machine
end

