-- ==== Sys2Proof/Machine/EdgeDetector.lean ====
section
/-! DEFINITION. The edge detector (40_edge_detector.md). -/

namespace Sys2Proof.Machine

/-- Report a rising edge and store the clock level, whatever the result (R52, R53). -/
def detectEdge (clk : Bool) (s : State) : State :=
  { s with
    wires := { s.wires with rising := isRisingEdge s.bus.prevClock clk }
    bus := { s.bus with prevClock := clk } }

/-- EDGE_DETECT (R52): field L of the sample. -/
def execEdgeDetect (sample : Byte) (s : State) : Result := .next (detectEdge (clkOf s.cfg sample) s)

end Sys2Proof.Machine
end

