-- ==== Sys2Proof/Machine/Handshake.lean ====
section
/-! DEFINITION. The handshake init counter (42_handshake_init_counter.md). -/

namespace Sys2Proof.Machine

/-- The completion of the handshake (R69): initialized, the SD card marked as selected when
`HANDSHAKE_SETS_SELECTION`, its select notification, and the framing reset. -/
def completeHandshake (s : State) : State :=
  let ready : State := { s with bus := { s.bus with initialized := true } }
  let marked := if s.cfg.handshakeSetsSelection then setSelected (some .sdCard) ready else ready
  resetFraming (emitAll [.select .sdCard] marked)

/-- HANDSHAKE_COMPLETE (R69). -/
def execHandshakeComplete (s : State) : Result := .next (completeHandshake s)

/-- A rising edge before initialization is counted and consumed; the one that brings the count to the threshold
completes the handshake (R68, R70). After initialization nothing happens (R71). -/
def countHandshake (s : State) : State :=
  if s.wires.rising = true ∧ s.bus.initialized = false then
    let counted : State := { s with bus := { s.bus with handshakeEdgeCount := s.bus.handshakeEdgeCount + 1 } }
    let done := if counted.bus.handshakeEdgeCount = s.cfg.handshakeThreshold then completeHandshake counted else counted
    { done with wires := { done.wires with consumed := true } }
  else
    { s with wires := { s.wires with consumed := false } }

/-- HANDSHAKE_COUNT (R68). -/
def execHandshakeCount (s : State) : Result := .next (countHandshake s)

end Sys2Proof.Machine
end

