-- ==== Sys2Proof/Machine/HostOps.lean ====
section
/-! DEFINITION. The step, as the sequence of its sub-operations, and the host operations (45_step_and_host.md). -/

namespace Sys2Proof.Machine

/-- One bus tick with its operands: edge detection, selection, handshake, framing, in the order of R90. "If not
rising: return" and "edge consumed: return" are the conditions the later sub-operations test (R68, R74). The per-step
values start idle and are dropped at the end (R25, R35). -/
def busTick (clk mosi : Bool) (dev : Sel) (s : State) : Result :=
  let edged := detectEdge clk (clearStepValues s)
  let selected := transition (setDecoded dev edged)
  let counted := countHandshake selected
  andThen (frame mosi counted) clearStepValues

/-- STEP (R90): any of the 256 samples. -/
def execStep (sample : Byte) (s : State) : Result :=
  busTick (clkOf s.cfg sample) (mosiOf s.cfg sample) (decodeDevice s.cfg sample) s

/-- RESET (R93): a new session, with the Bus State of R29. `Cfg`, the calls to come and the draw number are no part
of the Bus State and stay (DEDUCED, log entry 14). -/
def execReset (s : State) : Result := .next { s with bus := BusState.reset, wires := StepValues.idle }

/-- KBD_PUSH (R94): last write wins. -/
def execKbdPush (b : Byte) (s : State) : Result := .next { s with bus := { s.bus with kbdSlot := some b } }

end Sys2Proof.Machine
end

