-- ==== Sys2Proof/Machine/Samples.lean ====
section
/-! DEFINITION. The eight sample classes of the opcode table (30_encoding.md R45): a bus tick (R90) whose decoded
device is the class's. Card-detect, write-protect and the unused bit are read by none (R48). -/

namespace Sys2Proof.Machine

/-- SAMPLE.SEL_SD: line 1 only, under the default `Cfg`. -/
def execSampleSelSd (f : SampleFields) (s : State) : Result := busTick f.clk f.mosi (some .sdCard) s

/-- SAMPLE.SEL_KBD: line 2 only, under the default `Cfg`. -/
def execSampleSelKbd (f : SampleFields) (s : State) : Result := busTick f.clk f.mosi (some .keyboard) s

/-- SAMPLE.SEL_RTC: line 3 only, under the default `Cfg`. -/
def execSampleSelRtc (f : SampleFields) (s : State) : Result := busTick f.clk f.mosi (some .rtc) s

/-- SAMPLE.SEL_NONE: no line asserted. -/
def execSampleSelNone (f : SampleFields) (s : State) : Result := busTick f.clk f.mosi none s

/-- SAMPLE.SEL_MULTI_12: lines 1 and 2 asserted, the degraded case None (R47). -/
def execSampleSelMulti12 (f : SampleFields) (s : State) : Result := busTick f.clk f.mosi none s

/-- SAMPLE.SEL_MULTI_13: lines 1 and 3 asserted, the degraded case None (R47). -/
def execSampleSelMulti13 (f : SampleFields) (s : State) : Result := busTick f.clk f.mosi none s

/-- SAMPLE.SEL_MULTI_23: lines 2 and 3 asserted, the degraded case None (R47). -/
def execSampleSelMulti23 (f : SampleFields) (s : State) : Result := busTick f.clk f.mosi none s

/-- SAMPLE.SEL_MULTI_123: all three lines asserted, the degraded case None (R47). -/
def execSampleSelMulti123 (f : SampleFields) (s : State) : Result := busTick f.clk f.mosi none s

end Sys2Proof.Machine
end

