-- ==== Sys2Proof/Machine/Dispatch.lean ====
section
/-! DEFINITION. exec: one arm per row of spec/opcode_table.json. -/

namespace Sys2Proof.Machine

def exec (i : Instr) (s : State) : Host.Outcome State Fault Refusal :=
  match i with
  -- the sample classes
  | .sampleSelSd f => Sys2Proof.Machine.execSampleSelSd f s
  | .sampleSelKbd f => Sys2Proof.Machine.execSampleSelKbd f s
  | .sampleSelRtc f => Sys2Proof.Machine.execSampleSelRtc f s
  | .sampleSelNone f => Sys2Proof.Machine.execSampleSelNone f s
  | .sampleSelMulti12 f => Sys2Proof.Machine.execSampleSelMulti12 f s
  | .sampleSelMulti13 f => Sys2Proof.Machine.execSampleSelMulti13 f s
  | .sampleSelMulti23 f => Sys2Proof.Machine.execSampleSelMulti23 f s
  | .sampleSelMulti123 f => Sys2Proof.Machine.execSampleSelMulti123 f s
  -- the host operations
  | .reset => Sys2Proof.Machine.execReset s
  | .step sample => Sys2Proof.Machine.execStep sample s
  | .kbdPush b => Sys2Proof.Machine.execKbdPush b s
  -- the sub-operations
  | .edgeDetect sample => Sys2Proof.Machine.execEdgeDetect sample s
  | .selectDecode sample => Sys2Proof.Machine.execSelectDecode sample s
  | .selectTransition => Sys2Proof.Machine.execSelectTransition s
  | .handshakeCount => Sys2Proof.Machine.execHandshakeCount s
  | .handshakeComplete => Sys2Proof.Machine.execHandshakeComplete s
  | .frameBit sample => Sys2Proof.Machine.execFrameBit sample s
  | .byteComplete => Sys2Proof.Machine.execByteComplete s
  | .exchangeSd bIn => Sys2Proof.Machine.execExchangeSd bIn s
  | .exchangeKbd bIn => Sys2Proof.Machine.execExchangeKbd bIn s
  | .exchangeRtc bIn => Sys2Proof.Machine.execExchangeRtc bIn s
  | .outLatch bOut => Sys2Proof.Machine.execOutLatch bOut s

end Sys2Proof.Machine
end

