-- ==== Sys2Proof/Machine/Step.lean ====
section
/-! DEFINITION. One step of the machine: the next host call is taken and run to completion (R35, R39); with no call
to make the block waits unchanged (R24, R96, R107; log entry 2). -/

namespace Sys2Proof.Machine

/-- One host call. -/
def step (s : State) : Host.Outcome State Fault Refusal :=
  match fetch s with
  | none => .next s
  | some (i, t) => exec i t

/-- The state whose next call is a `STEP` with the sample of the given bits. Bits that are not one sample are no
instruction (R49), and place nothing. -/
def State.withFetchWord (s : State) (nbits w : Nat) : State :=
  if nbits = 8 then placeSample (BitVec.ofNat 8 w) s else s

end Sys2Proof.Machine
end

