-- ==== Sys2Proof/Machine/Pseudo.lean ====
section
/-! DEFINITION. The spec's trace notation (30_encoding.md R50, R51): the helpers `sel` and `smp`, the
pseudo-instructions as lists of host calls, and running a list of instructions. -/

namespace Sys2Proof.Machine

/-- The class of `sel(d)`: d's line asserted alone, or none (R50). -/
def classOfSel : Sel → SelClass
  | some d => .one d
  | none => .noLine

/-- `sel(d)` (R50). -/
def selWord (c : Cfg) (d : Sel) : Byte := selectField c (classOfSel d)

/-- `smp(d, m, clk)`: MOSI, the select field and the clock in place, the ignored bits 0 (R50). -/
def smp (c : Cfg) (d : Sel) (m clk : Bool) : Byte := place c.mosiBit m ||| selWord c d ||| place c.clkBit clk

/-- `SEL d` (R51). -/
def selCalls (c : Cfg) (d : Sel) : List HostCall := [.step (smp c d false false)]

/-- `DESEL` (R51). -/
def deselCalls (c : Cfg) : List HostCall := [.step (smp c none false false)]

/-- `BIT d, b`: one clock pulse with MOSI = b (R51). -/
def bitCalls (c : Cfg) (d : Sel) (b : Bool) : List HostCall :=
  [.step (smp c d b false), .step (smp c d b true)]

/-- `BYTE d, v`: eight pulses, most significant bit first (R51). -/
def byteCalls (c : Cfg) (d : Sel) (v : Byte) : List HostCall :=
  bitCalls c d (v.getLsbD 7) ++ bitCalls c d (v.getLsbD 6) ++ bitCalls c d (v.getLsbD 5) ++
    bitCalls c d (v.getLsbD 4) ++ bitCalls c d (v.getLsbD 3) ++ bitCalls c d (v.getLsbD 2) ++
    bitCalls c d (v.getLsbD 1) ++ bitCalls c d (v.getLsbD 0)

/-- `CLOCKS d, n`: n rising edges with MOSI = 0 (R51). -/
def clocksCalls (c : Cfg) (d : Sel) : Nat → List HostCall
  | 0 => []
  | n + 1 => bitCalls c d false ++ clocksCalls c d n

/-- The instructions in order, stopping at the first that gives no next state. -/
def execAll : List Instr → State → Result
  | [], s => .next s
  | i :: rest, s =>
    match exec i s with
    | .next t => execAll rest t
    | .fault r => .fault r
    | .refused r => .refused r

/-- `S w` for each sample in order (R50). -/
def stepSamples (ws : List Byte) (s : State) : Result := execAll (ws.map Instr.step) s

end Sys2Proof.Machine
end

