-- ==== Sys2Proof/Machine/Reference.lean ====
section
/-! DEFINITION. The flat pseudocode of `STEP` as 45_step_and_host.md R90 prints it, over the Bus State alone, written
without the sub-operations of the other files. exec does not use it: it is the clear form the step is compared with. -/

namespace Sys2Proof.Machine

/-- R90 part 2: the selection of a step, after `dev = decode(s)`. -/
def flatSelect (c : Cfg) (dev : Sel) (st : BusState) : BusState :=
  if dev = st.selectedDevice then st
  else
    let e1 := if st.selectedDevice = some .rtc then (if c.rtcDeselectNotify then [Event.deselect .rtc] else []) else []
    let e2 := if dev = some .sdCard then [Event.select .sdCard] else []
    let e3 := if dev = some .rtc then [Event.select .rtc] else []
    let e4 := if dev = some .keyboard then [Event.kbdCursorReset] else []
    { st with
      trace := st.trace ++ e1 ++ e2 ++ e3 ++ e4
      bitCount := 0
      inByteAccumulator := 0x00#8
      selectedDevice := dev }

/-- R90 part 3: the handshake on a rising edge before initialization. -/
def flatHandshake (c : Cfg) (st : BusState) : BusState :=
  let n := st.handshakeEdgeCount + 1
  if n = c.handshakeThreshold then
    { st with
      handshakeEdgeCount := n
      initialized := true
      selectedDevice := if c.handshakeSetsSelection then some .sdCard else st.selectedDevice
      trace := st.trace ++ [Event.select .sdCard]
      bitCount := 0
      inByteAccumulator := 0x00#8 }
  else { st with handshakeEdgeCount := n }

/-- R90 part 5: the answer, the slot after it and the draws after it. -/
def flatAnswer (c : Cfg) (d : Device) (bIn : Byte) (st : BusState) (draws : Nat) : Byte × Option Byte × Nat :=
  match d, st.kbdSlot with
  | .sdCard, slot => (Config.deviceAnswer .sdCard bIn st.trace draws, slot, draws + 1)
  | .rtc, slot => (Config.deviceAnswer .rtc bIn st.trace draws, slot, draws + 1)
  | .keyboard, none => (c.kbdNoKey, none, draws)
  | .keyboard, some k =>
    if k ≠ 0x00#8 then (k, none, draws)
    else if Config.zeroKeyReadsZero st.trace draws then (0x00#8, none, draws + 1)
    else (c.kbdNoKey, none, draws + 1)

/-- R90 parts 4 and 5: framing on a rising edge after initialization, and the exchange on the eighth bit. -/
def flatFrame (c : Cfg) (mosi : Bool) (st : BusState) (draws : Nat) : BusState × Nat :=
  match st.selectedDevice with
  | none => (st, draws)
  | some d =>
    let acc := (st.inByteAccumulator <<< 1) ||| BitVec.setWidth 8 (BitVec.ofBool mosi)
    if h : st.bitCount.val < 7 then
      ({ st with inByteAccumulator := acc, bitCount := ⟨st.bitCount.val + 1, by omega⟩ }, draws)
    else
      let (bOut, slot, draws') := flatAnswer c d acc st draws
      ({ st with
          inByteAccumulator := acc
          bitCount := 0
          kbdSlot := slot
          outByteRegister := some bOut
          trace := st.trace ++ [Event.exchange d acc bOut, Event.setOutByte bOut] }, draws')

/-- R90 over its operands: the Bus State and the draws after one tick. -/
def flatTick (c : Cfg) (clk mosi : Bool) (dev : Sel) (st : BusState) (draws : Nat) : BusState × Nat :=
  let rising := st.prevClock = false ∧ clk = true
  let st1 := flatSelect c dev { st with prevClock := clk }
  if ¬rising then (st1, draws)
  else if st1.initialized = false then (flatHandshake c st1, draws)
  else flatFrame c mosi st1 draws

/-- The state after R90's tick: the Bus State and the draws are its results, no per-step value is held (R25), and
nothing else changes. -/
def flatStep (clk mosi : Bool) (dev : Sel) (s : State) : State :=
  { s with
    bus := (flatTick s.cfg clk mosi dev s.bus s.draws).1
    draws := (flatTick s.cfg clk mosi dev s.bus s.draws).2
    wires := StepValues.idle }

end Sys2Proof.Machine
end

