-- ==== Sys2Proof/Safety.lean ====
section
/-! DEFINITION. What a claim may say of a state: which events move data, the last byte pushed, the shape of a trace,
and the invariant of the machine (10_state.md R22, with R19, R21, R25 and R89). -/

namespace Sys2Proof.Machine

/-- An `Exchange` or a `SetOutByte` (R22 item 3). -/
def isTransfer : Event → Bool
  | .exchange _ _ _ => true
  | .setOutByte _ => true
  | .select _ => false
  | .deselect _ => false
  | .kbdCursorReset => false

/-- The events R21 lists: `Select` of the SD card or the RTC, `Deselect` of the RTC. -/
def isListedEvent : Event → Bool
  | .select d => d != .keyboard
  | .deselect d => d == .rtc
  | .exchange _ _ _ => true
  | .setOutByte _ => true
  | .kbdCursorReset => true

/-- The byte of the last `SetOutByte` of a trace, or the value held before it. -/
def lastOut (before : Option Byte) : List Event → Option Byte
  | [] => before
  | .setOutByte v :: rest => lastOut (some v) rest
  | .exchange _ _ _ :: rest => lastOut before rest
  | .select _ :: rest => lastOut before rest
  | .deselect _ :: rest => lastOut before rest
  | .kbdCursorReset :: rest => lastOut before rest

/-- Every `Exchange` is followed at once by the `SetOutByte` of its answer, and no other `SetOutByte` occurs
(R82, R88, R89). -/
def isPaired : List Event → Bool
  | [] => true
  | .exchange _ _ r :: .setOutByte v :: rest => r == v && isPaired rest
  | .exchange _ _ _ :: _ => false
  | .setOutByte _ :: _ => false
  | .select _ :: rest => isPaired rest
  | .deselect _ :: rest => isPaired rest
  | .kbdCursorReset :: rest => isPaired rest

/-- R64's transition table: the events of a step whose decoded device is `dev` while `old` was selected, with
`RTC_DESELECT_NOTIFY` as given. Rows are the old device, columns None, SDCard, Keyboard, RTC. -/
def tableEvents (notify : Bool) : Sel → Sel → List Event
  | none, none => []
  | none, some .sdCard => [.select .sdCard]
  | none, some .keyboard => [.kbdCursorReset]
  | none, some .rtc => [.select .rtc]
  | some .sdCard, none => []
  | some .sdCard, some .sdCard => []
  | some .sdCard, some .keyboard => [.kbdCursorReset]
  | some .sdCard, some .rtc => [.select .rtc]
  | some .keyboard, none => []
  | some .keyboard, some .sdCard => [.select .sdCard]
  | some .keyboard, some .keyboard => []
  | some .keyboard, some .rtc => [.select .rtc]
  | some .rtc, none => if notify then [.deselect .rtc] else []
  | some .rtc, some .sdCard => if notify then [.deselect .rtc, .select .sdCard] else [.select .sdCard]
  | some .rtc, some .keyboard => if notify then [.deselect .rtc, .kbdCursorReset] else [.kbdCursorReset]
  | some .rtc, some .rtc => []

/-- How many rising edges a list of clock levels makes after the level `prev` (R57): the adjacent pairs 0 then 1. -/
def risingEdges (prev : Bool) : List Bool → Nat
  | [] => 0
  | clk :: rest => (if prev = false ∧ clk = true then 1 else 0) + risingEdges clk rest

/-- A sample makes a rising edge in a state (R52), whatever its class. -/
def sampleRises (s : State) (w : Byte) : Prop := s.bus.prevClock = false ∧ w.getLsbD s.cfg.clkBit = true

/-- Whether the sample completes a byte in the state: a rising edge after initialization, with the selected device
still addressed and seven bits framed (R74, R76, R80). -/
def sampleCompletesByte (s : State) (w : Byte) : Prop :=
  sampleRises s w ∧ s.bus.initialized = true ∧ decodeDevice s.cfg w = s.bus.selectedDevice ∧
    s.bus.selectedDevice ≠ none ∧ s.bus.bitCount = 7

/-- The invariant of the machine between host calls. R22 items 1 and 2 hold by the types of the fields. -/
structure Inv (s : State) : Prop where
  /-- R22 item 3. -/
  quietBeforeInit : s.bus.initialized = false →
    s.bus.bitCount = 0 ∧ s.bus.inByteAccumulator = 0x00#8 ∧ ∀ e ∈ s.bus.trace, isTransfer e = false
  /-- R22 item 4. -/
  countAfterInit : s.bus.initialized = true → s.bus.handshakeEdgeCount = s.cfg.handshakeThreshold
  /-- R22 item 5. -/
  countBeforeInit : s.bus.initialized = false → s.bus.handshakeEdgeCount < s.cfg.handshakeThreshold
  /-- R22 item 6. -/
  noneFramesNothing : s.bus.selectedDevice = none → s.bus.bitCount = 0
  /-- R19: the outgoing register holds the last byte pushed, or nothing. -/
  outIsLastPushed : s.bus.outByteRegister = lastOut none s.bus.trace
  /-- R89: exchanges and pushes come in pairs. -/
  paired : isPaired s.bus.trace = true
  /-- R21: only the listed events occur. -/
  listed : ∀ e ∈ s.bus.trace, isListedEvent e = true
  /-- R25: no per-step value is held between steps. -/
  wiresIdle : s.wires = StepValues.idle

end Sys2Proof.Machine
end

