-- ==== Sys2Proof/Certificates/Slice0/Obligations.lean ====
section
/-! DEFINITION. The statements for the provers. A statement whose conclusion is `exec i s = .next …` with the whole
next state written out is the instruction's result, its completion and its frame at once: every field not written
there is that of `s`. "The spec's decision D<n>" marks a clause that rests on 92_eei_decisions.md. -/

open Sys2Proof Sys2Proof.Machine

/-! ### Encoding -/

/-- Decoding the word of an instruction gives the instruction back, under every configuration (30_encoding.md section
3). The instructions with a word are the eight sample classes; under a line map that is not the default a one-line
class is named by its device, which is the model's reading (log entry 8, DEDUCED). -/
def Obligations.DecodeOfEncodeIsTheInstruction : Prop :=
  ∀ (c : Cfg) (i : Instr) (w : Byte), encode c i = some w → decodeSample c w = i

/-- Every one of the 256 samples is the word of the instruction it decodes to, under every configuration. -/
def Obligations.EncodeOfDecodeIsTheSample : Prop :=
  ∀ (c : Cfg) (w : Byte), encode c (decodeSample c w) = some w

/-- Sanity: table words and vectors of 95_test_vectors.md section 2.2 decode as written there, under the default
configuration, whose wiring is the spec's decisions D1 to D3 (log entry 7). -/
def Obligations.TableWordsDecode : Prop :=
  decodeTableWord 8 0x0C = some (.sampleSelSd ⟨false, false, false, false, false⟩) ∧
  decodeTableWord 8 0x0A = some (.sampleSelKbd ⟨false, false, false, false, false⟩) ∧
  decodeTableWord 8 0x06 = some (.sampleSelRtc ⟨false, false, false, false, false⟩) ∧
  decodeTableWord 8 0x0E = some (.sampleSelNone ⟨false, false, false, false, false⟩) ∧
  decodeTableWord 8 0x8D = some (.sampleSelSd ⟨true, true, false, false, false⟩) ∧
  decodeTableWord 8 0xF1 = some (.sampleSelMulti123 ⟨true, true, true, true, true⟩)

/-- R45's table under the default configuration (the spec's decisions D1 to D3; log entry 7): the class of a sample
is the row whose match it has under mask 0x0E, and the eight matches cover every sample. -/
def Obligations.SamplesMatchTheirTableRow : Prop :=
  ∀ w : Byte,
    (sampleClass Cfg.default w = .one .sdCard ↔ w &&& 0x0E#8 = 0x0C#8) ∧
    (sampleClass Cfg.default w = .one .keyboard ↔ w &&& 0x0E#8 = 0x0A#8) ∧
    (sampleClass Cfg.default w = .one .rtc ↔ w &&& 0x0E#8 = 0x06#8) ∧
    (sampleClass Cfg.default w = .noLine ↔ w &&& 0x0E#8 = 0x0E#8) ∧
    (sampleClass Cfg.default w = .lines12 ↔ w &&& 0x0E#8 = 0x08#8) ∧
    (sampleClass Cfg.default w = .lines13 ↔ w &&& 0x0E#8 = 0x04#8) ∧
    (sampleClass Cfg.default w = .lines23 ↔ w &&& 0x0E#8 = 0x02#8) ∧
    (sampleClass Cfg.default w = .lines123 ↔ w &&& 0x0E#8 = 0x00#8)

/-- No sample is illegal, and nothing but one 8-bit sample decodes (30_encoding.md section 5). -/
def Obligations.ExactlyTheSamplesDecode : Prop :=
  ∀ (nbits w : Nat), (decodeTableWord nbits w).isSome = true ↔ nbits = 8 ∧ w < 256

/-- The sample `smp(d, m, clk)` decodes to the class of `sel(d)` with those levels, the ignored bits 0 (R50, the
spec's decision D17), under every configuration. R45 names the classes for the default `Cfg` only: that under another
line map the class of a device's line is the one named by the device is the model's reading (log entry 8, DEDUCED). -/
def Obligations.SmpDecodesToItsOperands : Prop :=
  ∀ (c : Cfg) (d : Sel) (m clk : Bool),
    decodeSample c (smp c d m clk) = instrOfClass (classOfSel d) ⟨clk, m, false, false, false⟩ ∧
    decodeDevice c (smp c d m clk) = d

/-- The configurations the spec refuses (93_implementation_defined.md items 17 and 18), and no others. -/
def Obligations.RefusedConfigurations : Prop :=
  ∀ f : CfgFields,
    Cfg.ofFields? f = none ↔
      ¬ f.bits.Nodup ∨ ¬ [f.line1Device, f.line2Device, f.line3Device].Nodup ∨ f.handshakeThreshold = 0

/-! ### The step of the machine -/

/-- The machine takes its next host call and runs it as the instruction it decodes to; a `STEP` call runs the class
its sample decodes to. A placed word is the next call. -/
def Obligations.StepRunsTheDecodedInstruction : Prop :=
  (∀ (s : State) (w : Byte) (rest : List HostCall), s.inbox = .step w :: rest →
    step s = exec (decodeSample s.cfg w) { s with inbox := rest }) ∧
  (∀ (s : State) (rest : List HostCall), s.inbox = .reset :: rest →
    step s = exec .reset { s with inbox := rest }) ∧
  (∀ (s : State) (b : Byte) (rest : List HostCall), s.inbox = .kbdPush b :: rest →
    step s = exec (.kbdPush b) { s with inbox := rest }) ∧
  (∀ (s : State) (w : Nat), step (s.withFetchWord 8 w) = exec (decodeSample s.cfg (BitVec.ofNat 8 w)) s)

/-- With no host call to make, the block waits and loses no state (the spec's decision D16; log entry 2). -/
def Obligations.NoCallNoChange : Prop :=
  ∀ s : State, s.inbox = [] → step s = .next s

/-- RESET sets the Bus State to R29's values (the spec's decision D8) and drops the per-step values; the
configuration, the calls to come and the draw number stay (log entry 14). -/
def Obligations.ResetStartsASession : Prop :=
  ∀ s : State,
    exec .reset s = .next
      { cfg := s.cfg
        bus :=
          { prevClock := false, selectedDevice := none, initialized := false, handshakeEdgeCount := 0
            inByteAccumulator := 0x00#8, bitCount := 0, outByteRegister := none, kbdSlot := none, trace := [] }
        wires :=
          { rising := false, dev := none, justSelected := false, justDeselected := none, consumed := false
            completed := none, byteOut := none }
        inbox := s.inbox
        draws := s.draws }

/-- The machine right after reset holds R29's values (decision D8) under the defaults of R7 (decisions D1 to D7; log
entries 6 and 7). -/
def Obligations.ResetStateHoldsTheSpecValues : Prop :=
  State.reset.bus =
    { prevClock := false, selectedDevice := none, initialized := false, handshakeEdgeCount := 0
      inByteAccumulator := 0x00#8, bitCount := 0, outByteRegister := none, kbdSlot := none, trace := [] } ∧
  State.reset.cfg.toCfgFields =
    { clkBit := 0, sel1Bit := 1, sel2Bit := 2, sel3Bit := 3, unusedBit := 4, wpBit := 5, cdBit := 6, mosiBit := 7
      line1Device := .sdCard, line2Device := .keyboard, line3Device := .rtc, selActiveLow := true
      handshakeThreshold := 74, rtcDeselectNotify := true, kbdNoKey := 0xFF#8, handshakeSetsSelection := true }

/-- KBD_PUSH writes the slot and nothing else; the last of two pushes wins (45_step_and_host.md, the spec's decision
D13). -/
def Obligations.KeyPushOverwritesTheSlot : Prop :=
  (∀ (b : Byte) (s : State), exec (.kbdPush b) s = .next { s with bus := { s.bus with kbdSlot := some b } }) ∧
  (∀ (a b : Byte) (s : State), execAll [.kbdPush a, .kbdPush b] s = exec (.kbdPush b) s)

/-- STEP is R90's pseudocode, in every state, for every sample and every configuration. `flatStep` is R90's text over
the Bus State; the decoded device and the levels are the sample's. It rests on the spec's decisions D9 (the data bit is
the same sample's) and D12 (a popped key 0x00), and its answers are free values (log entries 3 and 4). -/
def Obligations.StepIsThePrintedPseudocode : Prop :=
  ∀ (w : Byte) (s : State),
    exec (.step w) s = .next
      (flatStep (w.getLsbD s.cfg.clkBit) (w.getLsbD s.cfg.mosiBit) (decodeDevice s.cfg w) s)

/-- Each sample class completes one tick of R90's pseudocode with the class's device: SAMPLE.SEL_SD, SAMPLE.SEL_KBD,
SAMPLE.SEL_RTC, SAMPLE.SEL_NONE and the four SAMPLE.SEL_MULTI rows (None). R45 gives the classes their devices for the
default `Cfg` only: that they keep them under every line map is the model's reading (log entry 8, DEDUCED). It rests
also on the spec's decisions D9 (the data bit is the same sample's) and D12 (a popped key 0x00), and its answers are
free values (log entries 3 and 4). -/
def Obligations.SampleClassesAreThePrintedPseudocode : Prop :=
  ∀ (f : SampleFields) (s : State),
    exec (.sampleSelSd f) s = .next (flatStep f.clk f.mosi (some .sdCard) s) ∧
    exec (.sampleSelKbd f) s = .next (flatStep f.clk f.mosi (some .keyboard) s) ∧
    exec (.sampleSelRtc f) s = .next (flatStep f.clk f.mosi (some .rtc) s) ∧
    exec (.sampleSelNone f) s = .next (flatStep f.clk f.mosi none s) ∧
    exec (.sampleSelMulti12 f) s = .next (flatStep f.clk f.mosi none s) ∧
    exec (.sampleSelMulti13 f) s = .next (flatStep f.clk f.mosi none s) ∧
    exec (.sampleSelMulti23 f) s = .next (flatStep f.clk f.mosi none s) ∧
    exec (.sampleSelMulti123 f) s = .next (flatStep f.clk f.mosi none s)

/-- STEP with a sample does what the sample's class does: the class table (R45) and the counting decode (R58) agree,
under every configuration. -/
def Obligations.StepRunsItsSampleClass : Prop :=
  ∀ (w : Byte) (s : State), exec (.step w) s = exec (decodeSample s.cfg w) s

/-- A step is the sequence of its sub-operations in R90's order (R10), with no per-step value held before or after. -/
def Obligations.StepIsItsSubOperations : Prop :=
  ∀ (w : Byte) (s : State), ∃ t : State,
    execAll [.edgeDetect w, .selectDecode w, .selectTransition, .handshakeCount, .frameBit w]
      { s with wires := StepValues.idle } = .next t ∧
    exec (.step w) s = .next { t with wires := StepValues.idle }

/-! ### The sub-operations -/

/-- EDGE_DETECT: Rising iff the previous bit was 0 and the current is 1; the clock bit is stored in every case; the
second clause is the table of corner cases. -/
def Obligations.EdgeDetectResult : Prop :=
  (∀ (w : Byte) (s : State),
    exec (.edgeDetect w) s = .next
      { s with
        wires := { s.wires with rising := !s.bus.prevClock && w.getLsbD s.cfg.clkBit }
        bus := { s.bus with prevClock := w.getLsbD s.cfg.clkBit } }) ∧
  (∀ (w : Byte) (s t : State), exec (.edgeDetect w) s = .next t →
    (t.wires.rising = true ↔ s.bus.prevClock = false ∧ t.bus.prevClock = true))

/-- SELECT_DECODE: the device of the one asserted line, and None when none or more than one is asserted; only the
step's `dev` is written (R58 and R44, the spec's decisions D2 and D3). -/
def Obligations.SelectDecodeResult : Prop :=
  ∀ (w : Byte) (s : State),
    exec (.selectDecode w) s = .next
      { s with
        wires :=
          { s.wires with
            dev :=
              match Bool.xor s.cfg.selActiveLow (w.getLsbD s.cfg.sel1Bit),
                Bool.xor s.cfg.selActiveLow (w.getLsbD s.cfg.sel2Bit),
                Bool.xor s.cfg.selActiveLow (w.getLsbD s.cfg.sel3Bit) with
              | true, false, false => some s.cfg.line1Device
              | false, true, false => some s.cfg.line2Device
              | false, false, true => some s.cfg.line3Device
              | _, _, _ => none } }

/-- SELECT_TRANSITION: on a change of device the notifications, the framing reset and the new device; otherwise
nothing of the Bus State (R60 to R62, the spec's decisions D5, D10 and D11). The keyboard's slot is not touched. -/
def Obligations.SelectTransitionResult : Prop :=
  ∀ s : State,
    exec .selectTransition s = .next
      (if s.wires.dev = s.bus.selectedDevice then
        { s with wires := { s.wires with justSelected := false, justDeselected := none } }
      else
        { s with
          wires := { s.wires with justSelected := s.wires.dev.isSome, justDeselected := s.bus.selectedDevice }
          bus :=
            { s.bus with
              bitCount := 0
              inByteAccumulator := 0x00#8
              selectedDevice := s.wires.dev
              trace := s.bus.trace ++
                tableEvents s.cfg.rtcDeselectNotify s.bus.selectedDevice s.wires.dev } })

/-- R63: on a selection transition `bit_count` and `in_byte_accumulator` become 0, whichever device becomes selected,
None among them; the bits framed before it are delivered to no device. -/
def Obligations.TransitionResetsFraming : Prop :=
  ∀ s : State, s.wires.dev ≠ s.bus.selectedDevice →
    ∃ (t : State) (l : List Event), exec .selectTransition s = .next t ∧
      t.bus.bitCount = 0 ∧ t.bus.inByteAccumulator = 0x00#8 ∧ t.bus.selectedDevice = s.wires.dev ∧
      t.bus.trace = s.bus.trace ++ l ∧ (∀ e ∈ l, isTransfer e = false)

/-- A whole step that changes the device leaves no bit framed before it and delivers no byte: what is left is nothing,
or the one bit this step's own edge framed (R63 and R79, derived by the spec; the data bit is the same sample's, the
spec's decision D9). -/
def Obligations.TransitionsDiscardFramedBits : Prop :=
  ∀ (w : Byte) (s : State), decodeDevice s.cfg w ≠ s.bus.selectedDevice →
    ∃ t : State, exec (.step w) s = .next t ∧
      ((t.bus.bitCount = 0 ∧ t.bus.inByteAccumulator = 0x00#8) ∨
        (sampleRises s w ∧ s.bus.initialized = true ∧ t.bus.bitCount = 1 ∧
          t.bus.inByteAccumulator = if w.getLsbD s.cfg.mosiBit then 0x01#8 else 0x00#8)) ∧
      ∃ l : List Event, t.bus.trace = s.bus.trace ++ l ∧ ∀ e ∈ l, isTransfer e = false

/-- The selector runs and notifies on every step, edge or not and initialized or not, before the handshake and the
framer: a step's events begin with the table's (R64), and after a step that does not complete the handshake the
decoded device is the selected one (R59). -/
def Obligations.SelectorRunsOnEveryStep : Prop :=
  ∀ (w : Byte) (s : State), ∃ (t : State) (rest : List Event),
    exec (.step w) s = .next t ∧
    t.bus.trace = s.bus.trace ++
      tableEvents s.cfg.rtcDeselectNotify s.bus.selectedDevice (decodeDevice s.cfg w) ++ rest ∧
    (¬ sampleRises s w → rest = []) ∧
    ((s.bus.initialized = true ∨ t.bus.initialized = false) → t.bus.selectedDevice = decodeDevice s.cfg w)

/-- HANDSHAKE_COUNT: a rising edge before initialization is counted and consumed, and at the threshold completes the
handshake (R68; the completion's writes by R69, the spec's decision D7); otherwise nothing is counted. -/
def Obligations.HandshakeCountResult : Prop :=
  ∀ s : State,
    exec .handshakeCount s = .next
      (if s.wires.rising = true ∧ s.bus.initialized = false then
        if s.bus.handshakeEdgeCount + 1 = s.cfg.handshakeThreshold then
          { s with
            wires := { s.wires with consumed := true }
            bus :=
              { s.bus with
                handshakeEdgeCount := s.cfg.handshakeThreshold
                initialized := true
                selectedDevice := if s.cfg.handshakeSetsSelection then some .sdCard else s.bus.selectedDevice
                bitCount := 0
                inByteAccumulator := 0x00#8
                trace := s.bus.trace ++ [.select .sdCard] } }
        else
          { s with
            wires := { s.wires with consumed := true }
            bus := { s.bus with handshakeEdgeCount := s.bus.handshakeEdgeCount + 1 } }
      else { s with wires := { s.wires with consumed := false } })

/-- HANDSHAKE_COMPLETE: initialized, the SD card selected when `HANDSHAKE_SETS_SELECTION`, its notification, the
framing reset, no deselect (R69, the spec's decision D7). -/
def Obligations.HandshakeCompleteResult : Prop :=
  ∀ s : State,
    exec .handshakeComplete s = .next
      { s with bus :=
          { s.bus with
            initialized := true
            selectedDevice := if s.cfg.handshakeSetsSelection then some .sdCard else s.bus.selectedDevice
            bitCount := 0
            inByteAccumulator := 0x00#8
            trace := s.bus.trace ++ [.select .sdCard] } }

/-- The step of the threshold edge: whatever the select lines and MOSI say, it initializes, notifies the SD card after
the transition's events, and frames no bit (R69, R70, R115; the spec's decision D7). -/
def Obligations.ThresholdEdgeInitializes : Prop :=
  ∀ (w : Byte) (s : State), sampleRises s w → s.bus.initialized = false →
    s.bus.handshakeEdgeCount + 1 = s.cfg.handshakeThreshold →
    exec (.step w) s = .next
      { s with
        wires := StepValues.idle
        bus :=
          { s.bus with
            prevClock := true
            initialized := true
            handshakeEdgeCount := s.cfg.handshakeThreshold
            selectedDevice := if s.cfg.handshakeSetsSelection then some .sdCard else decodeDevice s.cfg w
            bitCount := 0
            inByteAccumulator := 0x00#8
            trace := s.bus.trace ++
              tableEvents s.cfg.rtcDeselectNotify s.bus.selectedDevice (decodeDevice s.cfg w) ++
              [.select .sdCard] } }

/-- The gate is one-shot (R71): once initialized, HANDSHAKE_COUNT does nothing and consumes nothing, and no
instruction but RESET clears `initialized` or lowers the count; RESET re-arms the gate. -/
def Obligations.HandshakeGateIsOneShot : Prop :=
  (∀ s : State, s.bus.initialized = true →
    exec .handshakeCount s = .next { s with wires := { s.wires with consumed := false } }) ∧
  (∀ (i : Instr) (s t : State), exec i s = .next t → i ≠ .reset →
    (s.bus.initialized = true → t.bus.initialized = true) ∧
    s.bus.handshakeEdgeCount ≤ t.bus.handshakeEdgeCount) ∧
  (∀ s : State, ∃ t : State, exec .reset s = .next t ∧ t.bus.initialized = false)

/-- Before initialization a step delivers no byte to any device: it emits no `Exchange` and no `SetOutByte`, draws no
answer, writes no outgoing byte and frames no bit; on an edge it counts (R73). Beyond R73's words: the selector still
runs and notifies, so the step's events begin with those of its SELECT_DECODE and SELECT_TRANSITION (90_conflicts.md
C5); what follows them is nothing or the completion's `Select(SDCard)`, with no `Deselect` (R69, the spec's decision D7,
log entry 7); and the key slot stays, also when the step selects the keyboard (the spec's decision D11, log entry
16). -/
def Obligations.NoExchangeBeforeInitialization : Prop :=
  ∀ (w : Byte) (s : State), s.bus.initialized = false →
    ∃ (t u : State) (rest : List Event), exec (.step w) s = .next t ∧
      execAll [.selectDecode w, .selectTransition] s = .next u ∧
      t.bus.trace = u.bus.trace ++ rest ∧ (rest = [] ∨ rest = [.select .sdCard]) ∧
      (∃ l : List Event, u.bus.trace = s.bus.trace ++ l ∧ ∀ e ∈ l, isTransfer e = false) ∧
      t.draws = s.draws ∧ t.bus.kbdSlot = s.bus.kbdSlot ∧ t.bus.outByteRegister = s.bus.outByteRegister ∧
      ((t.bus.bitCount = 0 ∧ t.bus.inByteAccumulator = 0x00#8) ∨
        (t.bus.bitCount = s.bus.bitCount ∧ t.bus.inByteAccumulator = s.bus.inByteAccumulator)) ∧
      t.bus.handshakeEdgeCount =
        s.bus.handshakeEdgeCount + (if s.bus.prevClock = false ∧ w.getLsbD s.cfg.clkBit = true then 1 else 0)

/-- FRAME_BIT: with the gate closed nothing is framed; with it open the bit is shifted in from below and counted, and
the eighth completes the byte (R75; the gate is R74's; the data bit is the same sample's, the spec's decision D9). -/
def Obligations.FrameBitResult : Prop :=
  (∀ (w : Byte) (s : State),
    ¬ (s.wires.rising = true ∧ s.wires.consumed = false ∧ s.bus.initialized = true ∧ s.bus.selectedDevice ≠ none) →
    exec (.frameBit w) s = .next { s with wires := { s.wires with completed := none } }) ∧
  (∀ (w : Byte) (s : State),
    s.wires.rising = true → s.wires.consumed = false → s.bus.initialized = true → s.bus.selectedDevice ≠ none →
    ∀ h : s.bus.bitCount.val < 7,
    exec (.frameBit w) s = .next
      { s with
        wires := { s.wires with completed := none }
        bus :=
          { s.bus with
            inByteAccumulator := BitVec.ofNat 8
              (2 * s.bus.inByteAccumulator.toNat % 256 + (w.getLsbD s.cfg.mosiBit).toNat)
            bitCount := ⟨s.bus.bitCount.val + 1, by omega⟩ } }) ∧
  (∀ (w : Byte) (s : State),
    s.wires.rising = true → s.wires.consumed = false → s.bus.initialized = true → s.bus.selectedDevice ≠ none →
    s.bus.bitCount = 7 →
    ∃ t : State, exec (.frameBit w) s = .next t ∧
      exec .byteComplete
        { s with bus :=
            { s.bus with
              bitCount := 0
              inByteAccumulator := BitVec.ofNat 8
                (2 * s.bus.inByteAccumulator.toNat % 256 + (w.getLsbD s.cfg.mosiBit).toNat) } } = .next t ∧
      t.bus.bitCount = 0)

/-- BYTE_COMPLETE with a device selected: the count is 0, the accumulator keeps the byte, and the device's branch
(EXCHANGE_SD, EXCHANGE_KBD or EXCHANGE_RTC) gets it; the branch's answer is in one `Exchange` and is at once latched
and pushed, also when it repeats the last one (R76, R82; R88 with the spec's decision D21, log entry 16). With no device
selected, which no step reaches, it is the spec's model fault and not a value (R82, 93_implementation_defined.md item
19; that a lone BYTE_COMPLETE reaches it is log entry 10, DESIGN CHOICE). -/
def Obligations.ByteCompleteResult : Prop :=
  (∀ (s : State) (d : Device), s.bus.selectedDevice = some d →
    ∃ (u : State) (bOut : Byte),
      exec
        (match d with
          | .sdCard => .exchangeSd s.bus.inByteAccumulator
          | .keyboard => .exchangeKbd s.bus.inByteAccumulator
          | .rtc => .exchangeRtc s.bus.inByteAccumulator) s = .next u ∧
      u.wires.byteOut = some bOut ∧
      exec .byteComplete s = .next
        { s with
          draws := u.draws
          wires := { s.wires with completed := some s.bus.inByteAccumulator, byteOut := some bOut }
          bus :=
            { s.bus with
              bitCount := 0
              outByteRegister := some bOut
              kbdSlot := u.bus.kbdSlot
              trace := s.bus.trace ++ [.exchange d s.bus.inByteAccumulator bOut, .setOutByte bOut] } }) ∧
  (∀ s : State, s.bus.selectedDevice = none → exec .byteComplete s = .fault .exchangeWithNoDevice)

/-- EXCHANGE_SD and EXCHANGE_RTC: `b_out` is `DeviceExchange` of the SD card, or of the RTC, and of the byte sent;
nothing of the Bus State is written (R83, R86). The answer is the free value of that device, that byte, the events so
far and the draw number (R87 with the spec's decision D14), and each exchange counts one draw: both are the model's
form of the oracle (log entry 3, DESIGN CHOICE). -/
def Obligations.ExternalExchangeResults : Prop :=
  ∀ (bIn : Byte) (s : State),
    exec (.exchangeSd bIn) s = .next
      { s with
        draws := s.draws + 1
        wires := { s.wires with byteOut := some (Config.deviceAnswer .sdCard bIn s.bus.trace s.draws) } } ∧
    exec (.exchangeRtc bIn) s = .next
      { s with
        draws := s.draws + 1
        wires := { s.wires with byteOut := some (Config.deviceAnswer .rtc bIn s.bus.trace s.draws) } }

/-- EXCHANGE_KBD: the pending key, or `KBD_NO_KEY` when none is pending, or for a pending 0x00 one of the two; the slot
is empty after it, and nothing else of the Bus State changes (R84 and R85, the spec's decisions D6 and D12). -/
def Obligations.KeyboardExchangeResult : Prop :=
  ∀ (bIn : Byte) (s : State), ∃ (bOut : Byte) (n : Nat),
    exec (.exchangeKbd bIn) s = .next
      { s with
        draws := n
        wires := { s.wires with byteOut := some bOut }
        bus := { s.bus with kbdSlot := none } } ∧
    (s.bus.kbdSlot = none → bOut = s.cfg.kbdNoKey ∧ n = s.draws) ∧
    (∀ k : Byte, k ≠ 0x00#8 → s.bus.kbdSlot = some k → bOut = k ∧ n = s.draws) ∧
    (s.bus.kbdSlot = some 0x00#8 → (bOut = 0x00#8 ∨ bOut = s.cfg.kbdNoKey) ∧ n = s.draws + 1)

/-- The keyboard ignores the byte sent to it, and a second exchange with no push in between returns `KBD_NO_KEY`
(44_byte_exchanger_mux.md; L1.5 of 95_test_vectors.md). -/
def Obligations.KeyIsPoppedOnceWhateverIsSent : Prop :=
  (∀ (b1 b2 : Byte) (s : State), exec (.exchangeKbd b1) s = exec (.exchangeKbd b2) s) ∧
  (∀ (b1 b2 : Byte) (s : State), ∃ t : State,
    execAll [.exchangeKbd b1, .exchangeKbd b2] s = .next t ∧ t.wires.byteOut = some s.cfg.kbdNoKey)

/-- OUT_LATCH writes the outgoing register and pushes the byte, also when it repeats the last one (R88, the spec's
decision D21). -/
def Obligations.OutLatchResult : Prop :=
  ∀ (v : Byte) (s : State),
    exec (.outLatch v) s = .next
      { s with bus := { s.bus with outByteRegister := some v, trace := s.bus.trace ++ [.setOutByte v] } }

/-- The external sink reads the last latched byte, and its read faults before any byte completed
(93_implementation_defined.md item 20, the spec's decision D8). -/
def Obligations.SinkReadsTheLatchedByte : Prop :=
  (∀ (v : Byte) (s t : State), exec (.outLatch v) s = .next t → readOutByte t = .ok v) ∧
  (∀ s : State, s.bus.outByteRegister = none → readOutByte s = .error .outByteUnwritten) ∧
  (∀ (c : Cfg) (calls : List HostCall) (n : Nat), readOutByte (State.start c calls n) = .error .outByteUnwritten)

/-! ### Whole steps and the whole machine -/

/-- The invariant holds at every session start, under any configuration, any calls to come and any draw number; at
State.reset among them. -/
def Obligations.SessionStartMeetsInvariant : Prop :=
  (∀ (c : Cfg) (calls : List HostCall) (n : Nat), Inv (State.start c calls n)) ∧ Inv State.reset

/-- Every step of the machine keeps the invariant (10_state.md section 1, R22, with R19, R21, R25, R89): from every
state that meets it, whatever the call, the configuration and the answers. -/
def Obligations.EveryStepKeepsInvariant : Prop :=
  ∀ s t : State, Inv s → step s = .next t → Inv t

/-- The machine never faults, blocks or refuses: in every state, reachable or not, it has a next state; and a STEP of
any sample completes, appending events (45_step_and_host.md section 1, R91). -/
def Obligations.MachineNeverStops : Prop :=
  (∀ s : State, ∃ t : State, step s = .next t) ∧
  (∀ (w : Byte) (s : State), ∃ (t : State) (l : List Event),
    exec (.step w) s = .next t ∧ t.bus.trace = s.bus.trace ++ l)

/-- One step's events (R92, derived by the spec), in order: `e1`, at most one `Deselect`, and `e2`, at most one
`Select` or `KbdCursorReset`, which together are R64's for the old and the decoded device (the spec's decisions D5, D10
and D11); `e3`, the `Select(SDCard)` of the handshake's completion, exactly when this step sets `initialized`; `e4`, at
most one `Exchange` followed by its `SetOutByte`, only in a step that begins initialized and with the device selected.
So `e3` and `e4` never occur in one step. -/
def Obligations.EventsOfOneStep : Prop :=
  ∀ (w : Byte) (s : State), ∃ (t : State) (e1 e2 e3 e4 : List Event),
    exec (.step w) s = .next t ∧
    t.bus.trace = s.bus.trace ++ e1 ++ e2 ++ e3 ++ e4 ∧
    e1 ++ e2 = tableEvents s.cfg.rtcDeselectNotify s.bus.selectedDevice (decodeDevice s.cfg w) ∧
    (e1 = [] ∨ e1 = [.deselect .rtc]) ∧
    (e2 = [] ∨ e2 = [.select .sdCard] ∨ e2 = [.select .rtc] ∨ e2 = [.kbdCursorReset]) ∧
    e3 = (if s.bus.initialized = false ∧ t.bus.initialized = true then [.select .sdCard] else []) ∧
    (e4 = [] ∨ ∃ (d : Device) (bIn bOut : Byte),
      e4 = [.exchange d bIn bOut, .setOutByte bOut] ∧ s.bus.initialized = true ∧ s.bus.selectedDevice = some d ∧
        t.bus.selectedDevice = some d) ∧
    (e3 = [] ∨ e4 = [])

/-- Two samples that differ only in the unused, write-protect and card-detect bits do the same (R48, the spec's
decision D18). -/
def Obligations.IgnoredPinsDoNothing : Prop :=
  ∀ (w1 w2 : Byte) (s : State),
    (∀ j : Fin 8, j ≠ s.cfg.unusedBit → j ≠ s.cfg.wpBit → j ≠ s.cfg.cdBit → w1.getLsbD j = w2.getLsbD j) →
    exec (.step w1) s = exec (.step w2) s ∧ exec (decodeSample s.cfg w1) s = exec (decodeSample s.cfg w2) s

/-- "Holding the clock line constant across repeated `step` calls never advances `bit_count`" (R55): a sample at the
level the clock already has makes no edge; over any number of such samples the count of edges stands still, no byte
moves, and `bit_count` stays, or is reset by a transition; the whole Bus State stays whenever the samples keep
addressing the selected device. -/
def Obligations.HeldClockAdvancesNothing : Prop :=
  (∀ (w : Byte) (s : State), w.getLsbD s.cfg.clkBit = s.bus.prevClock →
    ∃ t : State, exec (.edgeDetect w) s = .next t ∧ t.wires.rising = false ∧ t.bus = s.bus) ∧
  (∀ (w : Byte) (s : State), ∃ t : State, exec (.step w) s = .next t ∧
    t.bus.prevClock = w.getLsbD s.cfg.clkBit) ∧
  (∀ (ws : List Byte) (s : State), (∀ w ∈ ws, w.getLsbD s.cfg.clkBit = s.bus.prevClock) →
    ∃ (t : State) (l : List Event), stepSamples ws s = .next t ∧
      t.bus.trace = s.bus.trace ++ l ∧ (∀ e ∈ l, isTransfer e = false) ∧
      t.bus.handshakeEdgeCount = s.bus.handshakeEdgeCount ∧ t.bus.initialized = s.bus.initialized ∧
      t.bus.prevClock = s.bus.prevClock ∧
      (t.bus.bitCount = s.bus.bitCount ∨ t.bus.bitCount = 0) ∧
      ((∀ w ∈ ws, decodeDevice s.cfg w = s.bus.selectedDevice) → t.bus = s.bus))

/-- A device's answers, the draws and the past events reach nothing but the outgoing register and the trace: two
states that differ only in those stay alike in everything else over any samples (R21, R91; the spec's decisions D12,
D14 and D22). -/
def Obligations.AnswersReachOnlyTheOutputs : Prop :=
  ∀ (ws : List Byte) (s1 s2 t1 t2 : State),
    (∃ (out : Option Byte) (tr : List Event) (n : Nat),
      s2 = { s1 with draws := n, bus := { s1.bus with outByteRegister := out, trace := tr } }) →
    stepSamples ws s1 = .next t1 → stepSamples ws s2 = .next t2 →
    ∃ (out : Option Byte) (tr : List Event) (n : Nat),
      t2 = { t1 with draws := n, bus := { t1.bus with outByteRegister := out, trace := tr } }

/-- The handshake counts the rising edges of any sequence of samples, whatever the select lines and MOSI carry, up to
the threshold, and initializes exactly when the threshold is reached (R57, R68, R109; derived). -/
def Obligations.HandshakeCountsRisingEdges : Prop :=
  ∀ (ws : List Byte) (s : State), s.bus.initialized = false → s.bus.handshakeEdgeCount < s.cfg.handshakeThreshold →
    ∃ t : State, stepSamples ws s = .next t ∧
      t.bus.handshakeEdgeCount =
        min s.cfg.handshakeThreshold
          (s.bus.handshakeEdgeCount + risingEdges s.bus.prevClock (ws.map fun w => w.getLsbD s.cfg.clkBit)) ∧
      (t.bus.initialized = true ↔
        s.cfg.handshakeThreshold ≤
          s.bus.handshakeEdgeCount + risingEdges s.bus.prevClock (ws.map fun w => w.getLsbD s.cfg.clkBit))

/-- A sample that changes the device and carries a rising edge, after initialization: its bit is the first of a byte
for the new device, and with no device addressed it frames nothing (R79, R112; derived by the spec from the order of
R90). The data bit is the same sample's MOSI (the spec's decision D9). -/
def Obligations.TransitionEdgeFramesForTheNewDevice : Prop :=
  ∀ (w : Byte) (s : State), sampleRises s w → s.bus.initialized = true →
    decodeDevice s.cfg w ≠ s.bus.selectedDevice →
    exec (.step w) s = .next
      { s with
        wires := StepValues.idle
        bus :=
          { s.bus with
            prevClock := true
            selectedDevice := decodeDevice s.cfg w
            bitCount := if decodeDevice s.cfg w = none then 0 else 1
            inByteAccumulator :=
              if decodeDevice s.cfg w ≠ none ∧ w.getLsbD s.cfg.mosiBit = true then 0x01#8 else 0x00#8
            trace := s.bus.trace ++
              tableEvents s.cfg.rtcDeselectNotify s.bus.selectedDevice (decodeDevice s.cfg w) } }

/-- A step delivers a byte exactly when its sample carries the eighth framed edge of the still addressed device, and
then it delivers the seven framed bits and this one, and the response is in `out_byte_register` when the step ends
(R40, R80, R89; per step). -/
def Obligations.ByteDeliveredOnTheEighthEdge : Prop :=
  ∀ (w : Byte) (s : State), ∃ (t : State) (l : List Event), exec (.step w) s = .next t ∧
    t.bus.trace = s.bus.trace ++ l ∧
    ((∃ e ∈ l, isTransfer e = true) ↔ sampleCompletesByte s w) ∧
    (sampleCompletesByte s w → ∃ (d : Device) (bOut : Byte),
      s.bus.selectedDevice = some d ∧
      l = [.exchange d (BitVec.ofNat 8 (2 * s.bus.inByteAccumulator.toNat % 256 +
            (w.getLsbD s.cfg.mosiBit).toNat)) bOut, .setOutByte bOut] ∧
      t.bus.outByteRegister = some bOut ∧ t.bus.bitCount = 0) ∧
    (¬ sampleCompletesByte s w → t.bus.outByteRegister = s.bus.outByteRegister ∧ t.bus.kbdSlot = s.bus.kbdSlot ∧
      t.draws = s.draws)

/-- No byte is delivered by samples that carry, with the bits already framed, fewer than eight rising edges, whatever
transitions lie between them (R66, R80; derived by the spec). -/
def Obligations.FewerThanEightEdgesDeliverNothing : Prop :=
  ∀ (ws : List Byte) (s : State),
    s.bus.bitCount.val + risingEdges s.bus.prevClock (ws.map fun w => w.getLsbD s.cfg.clkBit) < 8 →
    ∃ (t : State) (l : List Event), stepSamples ws s = .next t ∧
      t.bus.trace = s.bus.trace ++ l ∧ (∀ e ∈ l, isTransfer e = false) ∧
      t.bus.outByteRegister = s.bus.outByteRegister ∧ t.bus.kbdSlot = s.bus.kbdSlot ∧ t.draws = s.draws

/-- `BYTE d, v` (R51, the spec's decision D17) delivers exactly v, most significant bit first, whatever the
accumulator held: after initialization, with d newly addressed or no bit framed yet, its sixteen samples append the
transition's events (R64; the spec's decisions D5, D10 and D11), one `Exchange(d, v, r)` and one `SetOutByte(r)` (R31,
R77, R82, R88; derived by the spec; each data bit is that of the edge's own sample, decision D9). -/
def Obligations.ByteIsDeliveredMsbFirst : Prop :=
  ∀ (d : Device) (v : Byte) (s : State), s.bus.initialized = true →
    (s.bus.selectedDevice = some d → s.bus.bitCount = 0) →
    ∃ (t : State) (bOut : Byte),
      execAll ((byteCalls s.cfg d v).map (decodeCall s.cfg)) s = .next t ∧
      t.bus.trace = s.bus.trace ++
        tableEvents s.cfg.rtcDeselectNotify s.bus.selectedDevice (some d) ++
        [.exchange d v bOut, .setOutByte bOut] ∧
      t.bus.outByteRegister = some bOut ∧ t.bus.bitCount = 0 ∧ t.bus.inByteAccumulator = v ∧
      t.bus.selectedDevice = some d ∧ t.bus.prevClock = true

/-- `BIT d, b` makes exactly one rising edge, on its second sample, whatever the clock was before (R51, derived by the
spec), and leaves `prev_clock` = 1. -/
def Obligations.BitPulseMakesOneEdge : Prop :=
  ∀ (d : Sel) (b : Bool) (s : State), ∃ t u : State,
    exec (.step (smp s.cfg d b false)) s = .next t ∧ exec (.step (smp s.cfg d b true)) t = .next u ∧
    ¬ sampleRises s (smp s.cfg d b false) ∧ sampleRises t (smp s.cfg d b true) ∧ u.bus.prevClock = true

/-- No instruction changes the configuration or the calls to come (R26: `Cfg` is fixed for a session; the calls are
the model's own, log entry 2). -/
def Obligations.CfgIsFixedForASession : Prop :=
  (∀ (i : Instr) (s t : State), exec i s = .next t → t.cfg = s.cfg ∧ t.inbox = s.inbox) ∧
  (∀ s t : State, step s = .next t → t.cfg = s.cfg)

/-- The keyboard's slot is written by RESET, KBD_PUSH and EXCHANGE_KBD; any other instruction leaves it, or empties it
with a keyboard exchange it appends to the trace. Selecting the keyboard does not touch it (the spec's decisions D11
and D23). -/
def Obligations.WhoWritesTheKeySlot : Prop :=
  ∀ (i : Instr) (s t : State), exec i s = .next t →
    i = .reset ∨ (∃ b : Byte, i = .kbdPush b) ∨ (∃ b : Byte, i = .exchangeKbd b) ∨
    t.bus.kbdSlot = s.bus.kbdSlot ∨
    (t.bus.kbdSlot = none ∧ ∃ (l : List Event) (bIn bOut : Byte),
      t.bus.trace = s.bus.trace ++ l ++ [.exchange .keyboard bIn bOut, .setOutByte bOut])

/-- No instruction but RESET takes an event out of the trace (R21: events are appended, in order; the spec's decision
D22). -/
def Obligations.TraceOnlyGrows : Prop :=
  ∀ (i : Instr) (s t : State), exec i s = .next t → i ≠ .reset →
    ∃ l : List Event, t.bus.trace = s.bus.trace ++ l

/-- The frame of STEP and of every sample class (the class its sample decodes to): what a step leaves alone. -/
def Obligations.FrameOfAStep : Prop :=
  ∀ (w : Byte) (s t : State), (exec (.step w) s = .next t ∨ exec (decodeSample s.cfg w) s = .next t) →
    t.cfg = s.cfg ∧ t.inbox = s.inbox ∧ t.wires = StepValues.idle ∧
    (¬ sampleRises s w →
      t.bus.handshakeEdgeCount = s.bus.handshakeEdgeCount ∧ t.bus.initialized = s.bus.initialized ∧
      t.bus.outByteRegister = s.bus.outByteRegister ∧ t.bus.kbdSlot = s.bus.kbdSlot ∧ t.draws = s.draws) ∧
    (s.bus.initialized = true →
      t.bus.handshakeEdgeCount = s.bus.handshakeEdgeCount ∧ t.bus.initialized = true) ∧
    (¬ sampleCompletesByte s w →
      t.bus.outByteRegister = s.bus.outByteRegister ∧ t.bus.kbdSlot = s.bus.kbdSlot ∧ t.draws = s.draws) ∧
    (s.bus.selectedDevice ≠ some .keyboard → t.bus.kbdSlot = s.bus.kbdSlot) ∧
    (decodeDevice s.cfg w = s.bus.selectedDevice → ¬ sampleRises s w →
      t.bus = { s.bus with prevClock := w.getLsbD s.cfg.clkBit })

/-- `prev_clock` starts at 0 and after every step is the clock bit of that step's sample, on a rising edge too (R13,
R53). -/
def Obligations.PrevClockIsTheLastLevel : Prop :=
  (∀ (c : Cfg) (calls : List HostCall) (n : Nat), (State.start c calls n).bus.prevClock = false) ∧
  (∀ (w : Byte) (s : State), ∃ t : State, exec (.step w) s = .next t ∧
    t.bus.prevClock = w.getLsbD s.cfg.clkBit)

/-- A session whose first sample has the clock high counts one rising edge on it, and notifies the device it
addresses (R56, R108; derived by the spec from the reset values, decision D8). -/
def Obligations.FirstHighSampleIsAnEdge : Prop :=
  ∀ (w : Byte) (c : Cfg) (calls : List HostCall) (n : Nat), w.getLsbD c.clkBit = true →
    ∃ (t : State) (rest : List Event), exec (.step w) (State.start c calls n) = .next t ∧
      t.bus.handshakeEdgeCount = 1 ∧
      t.bus.trace = tableEvents c.rtcDeselectNotify none (decodeDevice c w) ++ rest
end

