-- ==== Sys2Proof/Laws/Decode.lean ====
section
/-! SUPPORT. The laws of field extraction, of the select classes and of the encoder. -/

namespace Sys2Proof

/-! ### What a configuration carries (R7) -/

theorem Cfg.bits_nodup (c : Cfg) : c.bits.Nodup := by
  have h := c.wf
  simp only [CfgFields.wf, CfgFields.bitsDistinct, Bool.and_eq_true, decide_eq_true_eq] at h
  exact h.1.1

theorem Cfg.lines_nodup (c : Cfg) : [c.line1Device, c.line2Device, c.line3Device].Nodup := by
  have h := c.wf
  simp only [CfgFields.wf, CfgFields.linesDistinct, Bool.and_eq_true, decide_eq_true_eq] at h
  exact h.1.2

theorem Cfg.threshold_pos (c : Cfg) : 1 ≤ c.handshakeThreshold := by
  have h := c.wf
  simp only [CfgFields.wf, CfgFields.thresholdPositive, Bool.and_eq_true, decide_eq_true_eq] at h
  exact h.2

/-- Every bit of the sample is the place of some signal: eight distinct indices below eight. -/
theorem Cfg.mem_bits (c : Cfg) (j : Fin 8) : j ∈ c.bits := by
  by_contra h
  have hlen := (List.nodup_cons.mpr ⟨h, c.bits_nodup⟩).length_le_card
  simp [CfgFields.bits] at hlen

/-! ### Levels -/

/-- A placed level is read back at its place and is 0 elsewhere. -/
theorem getLsbD_place (i j : Fin 8) (x : Bool) : (place i x).getLsbD j = (x && decide (i = j)) := by
  revert i j x; decide

/-- `asserted` is the exclusive or of the level with the polarity. -/
theorem asserted_eq_xor (c : Cfg) (x : Bool) : asserted c x = Bool.xor c.selActiveLow x := by
  simp only [asserted]; cases c.selActiveLow <;> simp

theorem lineLevel_asserted (c : Cfg) (x : Bool) : lineLevel c (asserted c x) = x := by
  simp only [lineLevel, asserted]; cases c.selActiveLow <;> simp

theorem asserted_lineLevel (c : Cfg) (x : Bool) : asserted c (lineLevel c x) = x := by
  simp only [lineLevel, asserted]; cases c.selActiveLow <;> simp

/-! ### Classes -/

/-- The class of the lines a class asserts is that class: the line map is a bijection. -/
theorem classOfLines_asserts (c : Cfg) (k : SelClass) :
    classOfLines c (k.asserts1 c) (k.asserts2 c) (k.asserts3 c) = k := by
  have h := c.lines_nodup
  rcases k with d | _ | _ | _ | _ | _ <;>
    simp [classOfLines, SelClass.asserts1, SelClass.asserts2, SelClass.asserts3]
  generalize c.line1Device = a at *
  generalize c.line2Device = b at *
  generalize c.line3Device = e at *
  cases a <;> cases b <;> cases e <;> cases d <;> simp_all

/-- The lines asserted by the class of some asserted lines are those lines. -/
theorem asserts_classOfLines (c : Cfg) (a b e : Bool) :
    (classOfLines c a b e).asserts1 c = a ∧ (classOfLines c a b e).asserts2 c = b ∧
      (classOfLines c a b e).asserts3 c = e := by
  have h := c.lines_nodup
  simp at h
  cases a <;> cases b <;> cases e <;>
    simp [classOfLines, SelClass.asserts1, SelClass.asserts2, SelClass.asserts3, h] <;> grind

/-- The counting decode (R58) and the class table (R45) give the same device. -/
theorem decodeDevice_eq_class (c : Cfg) (w : Byte) :
    Machine.decodeDevice c w = (sampleClass c w).device := by
  simp only [Machine.decodeDevice, Machine.assertedDevices, sampleClass]
  cases line1Asserted c w <;> cases line2Asserted c w <;> cases line3Asserted c w <;> rfl

/-! ### The encoder's word read back -/

theorem sampleFields_encodeClass (c : Cfg) (k : SelClass) (f : SampleFields) :
    sampleFields c (encodeClass c k f) = f := by
  have h := c.bits_nodup
  simp only [CfgFields.bits, List.nodup_cons, List.mem_cons, List.not_mem_nil, or_false, not_or] at h
  obtain ⟨clk, mosi, cd, wp, un⟩ := f
  simp only [sampleFields, level, encodeClass, selectField, fieldBits, BitVec.getLsbD_or, getLsbD_place]
  grind

theorem lines_encodeClass (c : Cfg) (k : SelClass) (f : SampleFields) :
    line1Asserted c (encodeClass c k f) = k.asserts1 c ∧ line2Asserted c (encodeClass c k f) = k.asserts2 c ∧
      line3Asserted c (encodeClass c k f) = k.asserts3 c := by
  have h := c.bits_nodup
  simp only [CfgFields.bits, List.nodup_cons, List.mem_cons, List.not_mem_nil, or_false, not_or] at h
  simp only [line1Asserted, line2Asserted, line3Asserted, level, encodeClass, selectField, fieldBits,
    BitVec.getLsbD_or, getLsbD_place, asserted, lineLevel]
  cases c.selActiveLow <;> grind

end Sys2Proof
end

