-- ==== Sys2Proof/Laws/State.lean ====
section
/-! SUPPORT. What each update of the state does to each of its five fields, true by unfolding. The Bus State is given
as one record update, from which each of its own fields is read off. -/

namespace Sys2Proof.Machine

@[simp] theorem emitAll_cfg (es : List Event) (s : State) : (emitAll es s).cfg = s.cfg := rfl
@[simp] theorem emitAll_bus (es : List Event) (s : State) : (emitAll es s).bus = { s.bus with trace := s.bus.trace ++ es } := rfl
@[simp] theorem emitAll_wires (es : List Event) (s : State) : (emitAll es s).wires = s.wires := rfl
@[simp] theorem emitAll_inbox (es : List Event) (s : State) : (emitAll es s).inbox = s.inbox := rfl
@[simp] theorem emitAll_draws (es : List Event) (s : State) : (emitAll es s).draws = s.draws := rfl

@[simp] theorem resetFraming_cfg (s : State) : (resetFraming s).cfg = s.cfg := rfl
@[simp] theorem resetFraming_bus (s : State) : (resetFraming s).bus = { s.bus with bitCount := 0, inByteAccumulator := 0x00#8 } := rfl
@[simp] theorem resetFraming_wires (s : State) : (resetFraming s).wires = s.wires := rfl
@[simp] theorem resetFraming_inbox (s : State) : (resetFraming s).inbox = s.inbox := rfl
@[simp] theorem resetFraming_draws (s : State) : (resetFraming s).draws = s.draws := rfl

@[simp] theorem setSelected_cfg (d : Sel) (s : State) : (setSelected d s).cfg = s.cfg := rfl
@[simp] theorem setSelected_bus (d : Sel) (s : State) : (setSelected d s).bus = { s.bus with selectedDevice := d } := rfl
@[simp] theorem setSelected_wires (d : Sel) (s : State) : (setSelected d s).wires = s.wires := rfl
@[simp] theorem setSelected_inbox (d : Sel) (s : State) : (setSelected d s).inbox = s.inbox := rfl
@[simp] theorem setSelected_draws (d : Sel) (s : State) : (setSelected d s).draws = s.draws := rfl

@[simp] theorem clearStepValues_cfg (s : State) : (clearStepValues s).cfg = s.cfg := rfl
@[simp] theorem clearStepValues_bus (s : State) : (clearStepValues s).bus = s.bus := rfl
@[simp] theorem clearStepValues_wires (s : State) : (clearStepValues s).wires = StepValues.idle := rfl
@[simp] theorem clearStepValues_inbox (s : State) : (clearStepValues s).inbox = s.inbox := rfl
@[simp] theorem clearStepValues_draws (s : State) : (clearStepValues s).draws = s.draws := rfl

@[simp] theorem placeSample_cfg (w : Byte) (s : State) : (placeSample w s).cfg = s.cfg := rfl
@[simp] theorem placeSample_bus (w : Byte) (s : State) : (placeSample w s).bus = s.bus := rfl
@[simp] theorem placeSample_wires (w : Byte) (s : State) : (placeSample w s).wires = s.wires := rfl
@[simp] theorem placeSample_inbox (w : Byte) (s : State) : (placeSample w s).inbox = .step w :: s.inbox := rfl
@[simp] theorem placeSample_draws (w : Byte) (s : State) : (placeSample w s).draws = s.draws := rfl

@[simp] theorem detectEdge_cfg (k : Bool) (s : State) : (detectEdge k s).cfg = s.cfg := rfl
@[simp] theorem detectEdge_bus (k : Bool) (s : State) : (detectEdge k s).bus = { s.bus with prevClock := k } := rfl
@[simp] theorem detectEdge_wires (k : Bool) (s : State) : (detectEdge k s).wires = { s.wires with rising := isRisingEdge s.bus.prevClock k } := rfl
@[simp] theorem detectEdge_inbox (k : Bool) (s : State) : (detectEdge k s).inbox = s.inbox := rfl
@[simp] theorem detectEdge_draws (k : Bool) (s : State) : (detectEdge k s).draws = s.draws := rfl

@[simp] theorem setDecoded_cfg (d : Sel) (s : State) : (setDecoded d s).cfg = s.cfg := rfl
@[simp] theorem setDecoded_bus (d : Sel) (s : State) : (setDecoded d s).bus = s.bus := rfl
@[simp] theorem setDecoded_wires (d : Sel) (s : State) : (setDecoded d s).wires = { s.wires with dev := d } := rfl
@[simp] theorem setDecoded_inbox (d : Sel) (s : State) : (setDecoded d s).inbox = s.inbox := rfl
@[simp] theorem setDecoded_draws (d : Sel) (s : State) : (setDecoded d s).draws = s.draws := rfl

@[simp] theorem externalExchange_cfg (d : Device) (b : Byte) (s : State) : (externalExchange d b s).cfg = s.cfg := rfl
@[simp] theorem externalExchange_bus (d : Device) (b : Byte) (s : State) : (externalExchange d b s).bus = s.bus := rfl
@[simp] theorem externalExchange_wires (d : Device) (b : Byte) (s : State) : (externalExchange d b s).wires = { s.wires with byteOut := some (externalAnswer d b s) } := rfl
@[simp] theorem externalExchange_inbox (d : Device) (b : Byte) (s : State) : (externalExchange d b s).inbox = s.inbox := rfl
@[simp] theorem externalExchange_draws (d : Device) (b : Byte) (s : State) : (externalExchange d b s).draws = s.draws + 1 := rfl

@[simp] theorem keyboardExchange_cfg (s : State) : (keyboardExchange s).cfg = s.cfg := rfl
@[simp] theorem keyboardExchange_bus (s : State) : (keyboardExchange s).bus = { s.bus with kbdSlot := none } := rfl
@[simp] theorem keyboardExchange_wires (s : State) : (keyboardExchange s).wires = { s.wires with byteOut := some (keyboardAnswer s) } := rfl
@[simp] theorem keyboardExchange_inbox (s : State) : (keyboardExchange s).inbox = s.inbox := rfl
@[simp] theorem keyboardExchange_draws (s : State) : (keyboardExchange s).draws = if s.bus.kbdSlot = some 0x00#8 then s.draws + 1 else s.draws := rfl

@[simp] theorem latchOut_cfg (v : Byte) (s : State) : (latchOut v s).cfg = s.cfg := rfl
@[simp] theorem latchOut_bus (v : Byte) (s : State) : (latchOut v s).bus = { s.bus with outByteRegister := some v, trace := s.bus.trace ++ [.setOutByte v] } := rfl
@[simp] theorem latchOut_wires (v : Byte) (s : State) : (latchOut v s).wires = s.wires := rfl
@[simp] theorem latchOut_inbox (v : Byte) (s : State) : (latchOut v s).inbox = s.inbox := rfl
@[simp] theorem latchOut_draws (v : Byte) (s : State) : (latchOut v s).draws = s.draws := rfl

end Sys2Proof.Machine
end

