-- ==== Sys2Proof/Laws/Ops.lean ====
section
/-! SUPPORT. One lemma for each shared operation that says everything it can do; proofs cite these instead of
unfolding the operations. -/

namespace Sys2Proof.Machine

/-! ### Continuing after a next state -/

@[simp] theorem andThen_next (t : State) (f : State → State) : andThen (.next t) f = .next (f t) := rfl

theorem andThen_eq_next {o : Result} {f : State → State} {t : State} (h : andThen o f = .next t) :
    ∃ u, o = .next u ∧ t = f u := by
  cases o with
  | next u => exact ⟨u, rfl, by simpa [andThen] using h.symm⟩
  | fault r => simp [andThen] at h
  | refused r => simp [andThen] at h

/-! ### Taking the next host call -/

theorem fetch_of_empty {s : State} (h : s.inbox = []) : fetch s = none := by simp [fetch, h]

theorem fetch_of_call {s : State} {call : HostCall} {rest : List HostCall} (h : s.inbox = call :: rest) :
    fetch s = some (decodeCall s.cfg call, { s with inbox := rest }) := by simp [fetch, h]

/-! ### The selection transition -/

/-- The notifications of a transition are the table's (R61, R62 against R64). -/
theorem events_of_transition (c : Cfg) {old dev : Sel} (h : dev ≠ old) :
    deselectEvents c old ++ selectEvents dev = tableEvents c.rtcDeselectNotify old dev := by
  cases hn : c.rtcDeselectNotify <;> rcases old with _ | (_ | _ | _) <;> rcases dev with _ | (_ | _ | _) <;>
    simp_all [deselectEvents, selectEvents, tableEvents]

@[simp] theorem tableEvents_self (n : Bool) (d : Sel) : tableEvents n d d = [] := by
  rcases d with _ | (_ | _ | _) <;> rfl

/-- No event of the table moves data. -/
theorem tableEvents_not_transfer {n : Bool} {old dev : Sel} {e : Event} (h : e ∈ tableEvents n old dev) :
    isTransfer e = false := by
  cases n <;> rcases old with _ | (_ | _ | _) <;> rcases dev with _ | (_ | _ | _) <;>
    simp [tableEvents] at h <;> rcases h with rfl | rfl <;> rfl

/-- Every event of the table is one of R21's list. -/
theorem tableEvents_listed {n : Bool} {old dev : Sel} {e : Event} (h : e ∈ tableEvents n old dev) :
    isListedEvent e = true := by
  cases n <;> rcases old with _ | (_ | _ | _) <;> rcases dev with _ | (_ | _ | _) <;>
    simp [tableEvents] at h <;> rcases h with rfl | rfl <;> rfl

/-- The same device decoded: nothing of the Bus State changes. -/
theorem transition_of_same {s : State} (h : s.wires.dev = s.bus.selectedDevice) :
    transition s = { s with wires := { s.wires with justSelected := false, justDeselected := none } } := by
  simp [transition, h]

/-- Another device decoded: the table's events, the framing reset and the new device. -/
theorem transition_of_change {s : State} (h : s.wires.dev ≠ s.bus.selectedDevice) :
    transition s =
      { s with
        wires := { s.wires with justSelected := s.wires.dev.isSome, justDeselected := s.bus.selectedDevice }
        bus :=
          { s.bus with
            bitCount := 0
            inByteAccumulator := 0x00#8
            selectedDevice := s.wires.dev
            trace := s.bus.trace ++ tableEvents s.cfg.rtcDeselectNotify s.bus.selectedDevice s.wires.dev } } := by
  have he := events_of_transition s.cfg h
  simp [transition, h, emitAll, setSelected, resetFraming, justSelectedOn, justDeselectedOn, ← he]

@[simp] theorem transition_cfg (s : State) : (transition s).cfg = s.cfg := by
  by_cases h : s.wires.dev = s.bus.selectedDevice
  · rw [transition_of_same h]
  · rw [transition_of_change h]

@[simp] theorem transition_inbox (s : State) : (transition s).inbox = s.inbox := by
  by_cases h : s.wires.dev = s.bus.selectedDevice
  · rw [transition_of_same h]
  · rw [transition_of_change h]

@[simp] theorem transition_draws (s : State) : (transition s).draws = s.draws := by
  by_cases h : s.wires.dev = s.bus.selectedDevice
  · rw [transition_of_same h]
  · rw [transition_of_change h]

/-! ### The handshake -/

/-- No rising edge, or initialized: nothing is counted. -/
theorem countHandshake_of_inert {s : State} (h : ¬ (s.wires.rising = true ∧ s.bus.initialized = false)) :
    countHandshake s = { s with wires := { s.wires with consumed := false } } := by
  simp only [countHandshake, if_neg h]

/-- A rising edge short of the threshold. -/
theorem countHandshake_of_count {s : State} (h : s.wires.rising = true ∧ s.bus.initialized = false)
    (hn : s.bus.handshakeEdgeCount + 1 ≠ s.cfg.handshakeThreshold) :
    countHandshake s =
      { s with
        wires := { s.wires with consumed := true }
        bus := { s.bus with handshakeEdgeCount := s.bus.handshakeEdgeCount + 1 } } := by
  simp [countHandshake, h, hn]

/-- The threshold edge. -/
theorem countHandshake_of_threshold {s : State} (h : s.wires.rising = true ∧ s.bus.initialized = false)
    (hn : s.bus.handshakeEdgeCount + 1 = s.cfg.handshakeThreshold) :
    countHandshake s =
      { s with
        wires := { s.wires with consumed := true }
        bus :=
          { s.bus with
            handshakeEdgeCount := s.cfg.handshakeThreshold
            initialized := true
            selectedDevice := if s.cfg.handshakeSetsSelection then some .sdCard else s.bus.selectedDevice
            bitCount := 0
            inByteAccumulator := 0x00#8
            trace := s.bus.trace ++ [.select .sdCard] } } := by
  cases hs : s.cfg.handshakeSetsSelection <;>
    simp [countHandshake, completeHandshake, h, hn, hs, setSelected, resetFraming, emitAll]

/-! ### The exchange and the framer -/

/-- An exchange with a device selected: the branch, the `Exchange` event, the latch and its push. -/
theorem exchange_of_device {s : State} {d : Device} (h : s.bus.selectedDevice = some d) (b : Byte) :
    exchange b s = .next
      { branchOf d b s with
        bus :=
          { (branchOf d b s).bus with
            outByteRegister := some (answerOf d b s)
            trace := (branchOf d b s).bus.trace ++ [.exchange d b (answerOf d b s), .setOutByte (answerOf d b s)] } } := by
  simp [exchange, h, latchOut, emitAll]

@[simp] theorem branchOf_cfg (d : Device) (b : Byte) (s : State) : (branchOf d b s).cfg = s.cfg := by
  cases d <;> rfl

@[simp] theorem branchOf_inbox (d : Device) (b : Byte) (s : State) : (branchOf d b s).inbox = s.inbox := by
  cases d <;> rfl

/-- A branch writes no field of the Bus State but the slot, and that one for the keyboard only. -/
@[simp] theorem branchOf_bus (d : Device) (b : Byte) (s : State) :
    (branchOf d b s).bus = { s.bus with kbdSlot := if d = .keyboard then none else s.bus.kbdSlot } := by
  cases d <;> rfl

/-- The answer of the branch is the step's `b_out`. -/
@[simp] theorem branchOf_wires (d : Device) (b : Byte) (s : State) :
    (branchOf d b s).wires = { s.wires with byteOut := some (answerOf d b s) } := by
  cases d <;> rfl

/-- The gate closed: nothing is framed. -/
theorem frame_of_closed {s : State} (h : framerGate s = false) (m : Bool) :
    frame m s = .next { s with wires := { s.wires with completed := none } } := by
  simp [frame, h]

/-- The gate open, and not the eighth bit. -/
theorem frame_of_bit {s : State} (h : framerGate s = true) (hb : s.bus.bitCount.val + 1 < 8) (m : Bool) :
    frame m s = .next
      { s with
        wires := { s.wires with completed := none }
        bus :=
          { s.bus with
            inByteAccumulator := shiftIn s.bus.inByteAccumulator m
            bitCount := ⟨s.bus.bitCount.val + 1, hb⟩ } } := by
  simp [frame, h, hb]

/-- The gate open, and the eighth bit: the byte completes. -/
theorem frame_of_eighth {s : State} (h : framerGate s = true) (hb : ¬ s.bus.bitCount.val + 1 < 8) (m : Bool) :
    frame m s = completeByte
      { s with bus :=
          { s.bus with inByteAccumulator := shiftIn s.bus.inByteAccumulator m, bitCount := 0 } } := by
  simp [frame, h, hb]

/-- An open gate means a selected device. -/
theorem device_of_gate {s : State} (h : framerGate s = true) : ∃ d, s.bus.selectedDevice = some d := by
  simp only [framerGate, Bool.and_eq_true] at h
  exact Option.isSome_iff_exists.mp h.2

/-- The framer always answers a next state: behind the gate an exchange finds a device. -/
theorem frame_total (m : Bool) (s : State) : ∃ t, frame m s = .next t := by
  cases h : framerGate s with
  | false => exact ⟨_, frame_of_closed h m⟩
  | true =>
    by_cases hb : s.bus.bitCount.val + 1 < 8
    · exact ⟨_, frame_of_bit h hb m⟩
    · obtain ⟨d, hd⟩ := device_of_gate h
      rw [frame_of_eighth h hb m]
      exact ⟨_, exchange_of_device (d := d) (by simpa using hd) _⟩

end Sys2Proof.Machine
end

