-- ==== Sys2Proof/Laws/PerInstr.lean ====
section
/-! SUPPORT. The statements made per instruction. Family `Worded`: an instruction has a word exactly when its row of
the opcode table gives it one, which is when its format is SAMPLE8. -/

namespace Sys2Proof.Laws.Worded

/-- The instruction has a word, under every configuration, exactly when its format is SAMPLE8. -/
def Statement (i : Instr) : Prop := ∀ c : Cfg, (encode c i).isSome = true ↔ i.format = .sample8

theorem sampleSelSd (f : SampleFields) : Statement (.sampleSelSd f) := fun _ => ⟨fun _ => rfl, fun _ => rfl⟩
theorem sampleSelKbd (f : SampleFields) : Statement (.sampleSelKbd f) := fun _ => ⟨fun _ => rfl, fun _ => rfl⟩
theorem sampleSelRtc (f : SampleFields) : Statement (.sampleSelRtc f) := fun _ => ⟨fun _ => rfl, fun _ => rfl⟩
theorem sampleSelNone (f : SampleFields) : Statement (.sampleSelNone f) := fun _ => ⟨fun _ => rfl, fun _ => rfl⟩
theorem sampleSelMulti12 (f : SampleFields) : Statement (.sampleSelMulti12 f) := fun _ => ⟨fun _ => rfl, fun _ => rfl⟩
theorem sampleSelMulti13 (f : SampleFields) : Statement (.sampleSelMulti13 f) := fun _ => ⟨fun _ => rfl, fun _ => rfl⟩
theorem sampleSelMulti23 (f : SampleFields) : Statement (.sampleSelMulti23 f) := fun _ => ⟨fun _ => rfl, fun _ => rfl⟩
theorem sampleSelMulti123 (f : SampleFields) : Statement (.sampleSelMulti123 f) := fun _ => ⟨fun _ => rfl, fun _ => rfl⟩
theorem reset : Statement .reset := fun _ => ⟨(nomatch ·), (nomatch ·)⟩
theorem step (w : Byte) : Statement (.step w) := fun _ => ⟨(nomatch ·), (nomatch ·)⟩
theorem kbdPush (b : Byte) : Statement (.kbdPush b) := fun _ => ⟨(nomatch ·), (nomatch ·)⟩
theorem edgeDetect (w : Byte) : Statement (.edgeDetect w) := fun _ => ⟨(nomatch ·), (nomatch ·)⟩
theorem selectDecode (w : Byte) : Statement (.selectDecode w) := fun _ => ⟨(nomatch ·), (nomatch ·)⟩
theorem selectTransition : Statement .selectTransition := fun _ => ⟨(nomatch ·), (nomatch ·)⟩
theorem handshakeCount : Statement .handshakeCount := fun _ => ⟨(nomatch ·), (nomatch ·)⟩
theorem handshakeComplete : Statement .handshakeComplete := fun _ => ⟨(nomatch ·), (nomatch ·)⟩
theorem frameBit (w : Byte) : Statement (.frameBit w) := fun _ => ⟨(nomatch ·), (nomatch ·)⟩
theorem byteComplete : Statement .byteComplete := fun _ => ⟨(nomatch ·), (nomatch ·)⟩
theorem exchangeSd (b : Byte) : Statement (.exchangeSd b) := fun _ => ⟨(nomatch ·), (nomatch ·)⟩
theorem exchangeKbd (b : Byte) : Statement (.exchangeKbd b) := fun _ => ⟨(nomatch ·), (nomatch ·)⟩
theorem exchangeRtc (b : Byte) : Statement (.exchangeRtc b) := fun _ => ⟨(nomatch ·), (nomatch ·)⟩
theorem outLatch (v : Byte) : Statement (.outLatch v) := fun _ => ⟨(nomatch ·), (nomatch ·)⟩

end Sys2Proof.Laws.Worded
end

