-- ==== Sys2Proof/Laws/Step.lean ====
section
/-! SUPPORT. Everything one bus tick can do, said once: the Bus State after the selection, and then one of six cases.
Also the shift of the framer and what an exchange's answer can be. -/

namespace Sys2Proof.Machine

/-- The Bus State of a tick after edge detection and selection (R90 parts 1 and 2). -/
def busAfterSelection (k : Bool) (d : Sel) (s : State) : BusState :=
  if d = s.bus.selectedDevice then { s.bus with prevClock := k }
  else
    { s.bus with
      prevClock := k
      bitCount := 0
      inByteAccumulator := 0x00#8
      selectedDevice := d
      trace := s.bus.trace ++ tableEvents s.cfg.rtcDeselectNotify s.bus.selectedDevice d }

theorem busAfterSelection_same {k : Bool} {d : Sel} {s : State} (h : d = s.bus.selectedDevice) :
    busAfterSelection k d s = { s.bus with prevClock := k } := by simp only [busAfterSelection, if_pos h]

@[simp] theorem busAfterSelection_prevClock (k : Bool) (d : Sel) (s : State) :
    (busAfterSelection k d s).prevClock = k := by unfold busAfterSelection; split_ifs <;> rfl

@[simp] theorem busAfterSelection_selectedDevice (k : Bool) (d : Sel) (s : State) :
    (busAfterSelection k d s).selectedDevice = d := by
  unfold busAfterSelection
  split_ifs with h
  · exact h.symm
  · rfl

@[simp] theorem busAfterSelection_initialized (k : Bool) (d : Sel) (s : State) :
    (busAfterSelection k d s).initialized = s.bus.initialized := by unfold busAfterSelection; split_ifs <;> rfl

@[simp] theorem busAfterSelection_handshakeEdgeCount (k : Bool) (d : Sel) (s : State) :
    (busAfterSelection k d s).handshakeEdgeCount = s.bus.handshakeEdgeCount := by
  unfold busAfterSelection; split_ifs <;> rfl

@[simp] theorem busAfterSelection_inByteAccumulator (k : Bool) (d : Sel) (s : State) :
    (busAfterSelection k d s).inByteAccumulator =
      if d = s.bus.selectedDevice then s.bus.inByteAccumulator else 0x00#8 := by
  unfold busAfterSelection; split_ifs <;> rfl

@[simp] theorem busAfterSelection_bitCount (k : Bool) (d : Sel) (s : State) :
    (busAfterSelection k d s).bitCount = if d = s.bus.selectedDevice then s.bus.bitCount else 0 := by
  unfold busAfterSelection; split_ifs <;> rfl

@[simp] theorem busAfterSelection_outByteRegister (k : Bool) (d : Sel) (s : State) :
    (busAfterSelection k d s).outByteRegister = s.bus.outByteRegister := by
  unfold busAfterSelection; split_ifs <;> rfl

@[simp] theorem busAfterSelection_kbdSlot (k : Bool) (d : Sel) (s : State) :
    (busAfterSelection k d s).kbdSlot = s.bus.kbdSlot := by unfold busAfterSelection; split_ifs <;> rfl

@[simp] theorem busAfterSelection_trace (k : Bool) (d : Sel) (s : State) :
    (busAfterSelection k d s).trace =
      s.bus.trace ++ tableEvents s.cfg.rtcDeselectNotify s.bus.selectedDevice d := by
  unfold busAfterSelection
  split_ifs with h
  · simp [h]
  · rfl

/-- The state handed to the handshake and the framer. -/
theorem selected_of_tick (k : Bool) (d : Sel) (s : State) :
    ∃ j x, transition (setDecoded d (detectEdge k (clearStepValues s))) =
      { s with
        bus := busAfterSelection k d s
        wires :=
          { rising := isRisingEdge s.bus.prevClock k, dev := d, justSelected := j, justDeselected := x
            consumed := false, completed := none, byteOut := none } } := by
  by_cases h : d = s.bus.selectedDevice
  · refine ⟨false, none, ?_⟩
    rw [transition_of_same (by simpa using h), busAfterSelection_same h]
    rfl
  · refine ⟨d.isSome, s.bus.selectedDevice, ?_⟩
    rw [transition_of_change (by simpa using h)]
    simp [busAfterSelection, h, StepValues.idle]

/-- Everything one bus tick can do. It always answers a next state; `cfg` and `inbox` stay, no per-step value is left,
`prev_clock` is the clock level; and one of: no edge; the threshold edge; an edge counted; an edge with no device; a
bit framed; a byte completed. -/
theorem busTick_cases (k m : Bool) (d : Sel) (s : State) :
    ∃ t, busTick k m d s = .next t ∧ t.cfg = s.cfg ∧ t.inbox = s.inbox ∧ t.wires = StepValues.idle ∧
      ((¬ (s.bus.prevClock = false ∧ k = true) ∧ t.draws = s.draws ∧ t.bus = busAfterSelection k d s) ∨
        (s.bus.prevClock = false ∧ k = true ∧ s.bus.initialized = false ∧
          s.bus.handshakeEdgeCount + 1 = s.cfg.handshakeThreshold ∧ t.draws = s.draws ∧
          t.bus =
            { busAfterSelection k d s with
              handshakeEdgeCount := s.cfg.handshakeThreshold
              initialized := true
              selectedDevice := if s.cfg.handshakeSetsSelection then some .sdCard else d
              bitCount := 0
              inByteAccumulator := 0x00#8
              trace := (busAfterSelection k d s).trace ++ [.select .sdCard] }) ∨
        (s.bus.prevClock = false ∧ k = true ∧ s.bus.initialized = false ∧
          s.bus.handshakeEdgeCount + 1 ≠ s.cfg.handshakeThreshold ∧ t.draws = s.draws ∧
          t.bus = { busAfterSelection k d s with handshakeEdgeCount := s.bus.handshakeEdgeCount + 1 }) ∨
        (s.bus.prevClock = false ∧ k = true ∧ s.bus.initialized = true ∧ d = none ∧ t.draws = s.draws ∧
          t.bus = busAfterSelection k d s) ∨
        (s.bus.prevClock = false ∧ k = true ∧ s.bus.initialized = true ∧ d ≠ none ∧ t.draws = s.draws ∧
          ∃ h : (busAfterSelection k d s).bitCount.val + 1 < 8,
            t.bus =
              { busAfterSelection k d s with
                inByteAccumulator := shiftIn (busAfterSelection k d s).inByteAccumulator m
                bitCount := ⟨(busAfterSelection k d s).bitCount.val + 1, h⟩ }) ∨
        (∃ (e : Device) (bOut : Byte), s.bus.prevClock = false ∧ k = true ∧ s.bus.initialized = true ∧
          d = some e ∧ s.bus.selectedDevice = some e ∧ s.bus.bitCount = 7 ∧
          t.bus =
            { s.bus with
              prevClock := true
              inByteAccumulator := shiftIn s.bus.inByteAccumulator m
              bitCount := 0
              kbdSlot := if e = .keyboard then none else s.bus.kbdSlot
              outByteRegister := some bOut
              trace := s.bus.trace ++
                [.exchange e (shiftIn s.bus.inByteAccumulator m) bOut, .setOutByte bOut] })) := by
  obtain ⟨j, x, hu⟩ := selected_of_tick k d s
  simp only [busTick, hu]
  by_cases hr : s.bus.prevClock = false ∧ k = true
  swap
  · -- no edge
    have hrise : isRisingEdge s.bus.prevClock k = false := by
      cases hp : s.bus.prevClock <;> cases k <;> simp_all [isRisingEdge]
    rw [countHandshake_of_inert (by simp [hrise]), frame_of_closed (by simp [framerGate, hrise])]
    exact ⟨_, rfl, rfl, rfl, rfl, .inl ⟨hr, rfl, rfl⟩⟩
  obtain ⟨hp, hk⟩ := hr
  have hrise : isRisingEdge s.bus.prevClock k = true := by simp [isRisingEdge, hp, hk]
  cases hi : s.bus.initialized with
  | false =>
    have hc : isRisingEdge s.bus.prevClock k = true ∧ (busAfterSelection k d s).initialized = false := by
      simp [hrise, hi]
    by_cases hn : s.bus.handshakeEdgeCount + 1 = s.cfg.handshakeThreshold
    · -- the threshold edge
      rw [countHandshake_of_threshold hc (by simpa using hn), frame_of_closed (by simp [framerGate])]
      exact ⟨_, rfl, rfl, rfl, rfl, .inr (.inl ⟨hp, hk, rfl, hn, rfl, by simp⟩)⟩
    · -- an edge counted
      rw [countHandshake_of_count hc (by simpa using hn), frame_of_closed (by simp [framerGate])]
      exact ⟨_, rfl, rfl, rfl, rfl, .inr (.inr (.inl ⟨hp, hk, rfl, hn, rfl, by simp⟩))⟩
  | true =>
    rw [countHandshake_of_inert (by simp [hi])]
    cases hd : d with
    | none =>
      -- an edge with no device
      subst hd
      rw [frame_of_closed (by simp [framerGate])]
      exact ⟨_, rfl, rfl, rfl, rfl, .inr (.inr (.inr (.inl ⟨hp, hk, rfl, rfl, rfl, rfl⟩)))⟩
    | some e =>
      subst hd
      by_cases hb : (busAfterSelection k (some e) s).bitCount.val + 1 < 8
      · -- a bit framed
        rw [frame_of_bit (by simp [framerGate, hrise, hi]) hb]
        exact ⟨_, rfl, rfl, rfl, rfl,
          .inr (.inr (.inr (.inr (.inl ⟨hp, hk, rfl, by simp, rfl, hb, rfl⟩))))⟩
      · -- a byte completed
        have hsel : some e = s.bus.selectedDevice := by
          by_contra hne
          simp [hne] at hb
        have hseven : s.bus.bitCount = 7 := by
          have hlt := s.bus.bitCount.isLt
          simp only [busAfterSelection_bitCount, if_pos hsel] at hb
          exact Fin.ext (by simp; omega)
        rw [frame_of_eighth (by simp [framerGate, hrise, hi]) hb, completeByte, exchange_of_device (d := e) (by simp)]
        generalize answerOf e _ _ = r
        refine ⟨_, rfl, by simp, by simp, rfl,
          .inr (.inr (.inr (.inr (.inr ⟨e, r, hp, hk, rfl, rfl, hsel.symm, hseven, ?_⟩))))⟩
        simp [busAfterSelection_same hsel, hk, hi]

/-- STEP is the tick of its sample's operands. -/
theorem exec_step_eq_busTick (w : Byte) (s : State) :
    exec (.step w) s = busTick (w.getLsbD s.cfg.clkBit) (w.getLsbD s.cfg.mosiBit) (decodeDevice s.cfg w) s := rfl

/-- A sample class is the tick of its fields and its device. -/
theorem exec_instrOfClass (k : SelClass) (f : SampleFields) (s : State) :
    exec (instrOfClass k f) s = busTick f.clk f.mosi k.device s := by
  rcases k with (_ | _ | _) | _ | _ | _ | _ | _ <;> rfl

/-- The shift in arithmetic: the accumulator doubled modulo 256, plus the bit (R75). -/
theorem shiftIn_eq_ofNat (a : Byte) (m : Bool) :
    shiftIn a m = BitVec.ofNat 8 (2 * a.toNat % 256 + m.toNat) := by
  cases m
  · apply BitVec.eq_of_toNat_eq
    simp [shiftIn]
    omega
  · have h : (a <<< 1) ||| 1#8 = (a <<< 1) + 1#8 := by
      rw [BitVec.add_eq_or_of_and_eq_zero]
      ext i hi
      simp
      omega
    apply BitVec.eq_of_toNat_eq
    simp [shiftIn, h, BitVec.toNat_add, BitVec.toNat_shiftLeft, Nat.shiftLeft_eq]
    omega

/-- Each bit of a shifted accumulator: the new bit below, the old ones one place up. -/
theorem getLsbD_shiftIn (a : Byte) (m : Bool) {j : Nat} (hj : j < 8) :
    (shiftIn a m).getLsbD j = if j = 0 then m else a.getLsbD (j - 1) := by
  simp only [shiftIn, BitVec.getLsbD_or, BitVec.getLsbD_shiftLeft]
  rcases j with _ | j
  · cases m <;> simp
  · have h : (if m = true then 1#8 else 0#8).getLsbD (j + 1) = false := by cases m <;> simp
    rw [h]
    simp
    omega

end Sys2Proof.Machine
end

