-- ==== Sys2Proof/Tests/Slice0.lean ====
section
/-! SUPPORT. The author's own tests: ill-formed terms refused, words written out from the encoding table, one step per
vector of 95_test_vectors.md, and for every statement with hypotheses a state and operands that meet them. -/

namespace Sys2Proof.Tests

open Sys2Proof Sys2Proof.Machine

/-! ### Helpers: the notation of 95_test_vectors.md section 0 -/

/-- `⟨prev, sel, init, hs, acc, bc, out, slot⟩`, with an empty trace. -/
def busOf (prev : Bool) (sel : Sel) (init : Bool) (hs : Nat) (acc : Byte) (bc : Fin 8) (out slot : Option Byte) :
    BusState :=
  { prevClock := prev, selectedDevice := sel, initialized := init, handshakeEdgeCount := hs
    inByteAccumulator := acc, bitCount := bc, outByteRegister := out, kbdSlot := slot, trace := [] }

/-- A Bus State under the default configuration. -/
def at' (b : BusState) : State := { State.reset with bus := b }

/-- SI, the idle state after initialization. -/
def si : State := at' (busOf false none true 74 0x00#8 0 none none)

/-- After initialization with a device selected, a count and an accumulator. -/
def framing (prev : Bool) (d : Device) (acc : Byte) (bc : Fin 8) (slot : Option Byte) : State :=
  at' (busOf prev (some d) true 74 acc bc none slot)

/-- The default configuration with threshold 1 (vector H5). -/
def cfgOne : Cfg := ⟨{ CfgFields.default with handshakeThreshold := 1 }, by decide⟩

/-- A state with the step's `rising` set. -/
def rising (s : State) : State := { s with wires := { s.wires with rising := true } }

/-- The Bus State a result holds. -/
def busAfter (r : Result) : Option BusState :=
  match r with
  | .next t => some t.bus
  | .fault _ => none
  | .refused _ => none

/-- The per-step values a result holds. -/
def wiresAfter (r : Result) : Option StepValues :=
  match r with
  | .next t => some t.wires
  | .fault _ => none
  | .refused _ => none

/-- The levels of a sample with nothing but clock and MOSI high. -/
def lv (clk mosi : Bool) : SampleFields := ⟨clk, mosi, false, false, false⟩

/-! ### WellFormed: each check refuses an ill-formed term -/

theorem test_wf_default : CfgFields.default.wf = true := by decide
theorem test_wf_two_signals_on_one_pin :
    Cfg.ofFields? { CfgFields.default with mosiBit := 0 } = none := by decide
theorem test_wf_two_lines_to_one_device :
    Cfg.ofFields? { CfgFields.default with line2Device := .sdCard } = none := by decide
theorem test_wf_threshold_zero : Cfg.ofFields? { CfgFields.default with handshakeThreshold := 0 } = none := by decide
theorem test_wf_sub_operations_not_issuable :
    [Instr.edgeDetect 0, .selectDecode 0, .selectTransition, .handshakeCount, .handshakeComplete, .frameBit 0,
      .byteComplete, .exchangeSd 0, .exchangeKbd 0, .exchangeRtc 0, .outLatch 0].all
      (fun i => !i.hostIssuable) = true := by decide
theorem test_wf_host_operations_issuable :
    [Instr.reset, .step 0, .kbdPush 0, .sampleSelSd (lv true true)].all Instr.hostIssuable = true := by decide
theorem test_wf_run_without_reset : runWellFormed [.step 0x0C#8] = false ∧ runWellFormed [] = false := by decide
theorem test_wf_run : runWellFormed [.reset, .step 0x0C#8] = true := by decide

/-! ### Decoding: each class's word, bit by bit (R43, R45: M C W U S3 S2 S1 L) -/

theorem test_decode_sel_sd : decodeTableWord 8 0b1000_1101 = some (.sampleSelSd ⟨true, true, false, false, false⟩) := by
  decide
theorem test_decode_sel_kbd : decodeTableWord 8 0b0100_1010 = some (.sampleSelKbd ⟨false, false, true, false, false⟩) := by
  decide
theorem test_decode_sel_rtc : decodeTableWord 8 0b0010_0111 = some (.sampleSelRtc ⟨true, false, false, true, false⟩) := by
  decide
theorem test_decode_sel_none : decodeTableWord 8 0b0001_1110 = some (.sampleSelNone ⟨false, false, false, false, true⟩) := by
  decide
theorem test_decode_multi_12 : decodeTableWord 8 0b0000_1000 = some (.sampleSelMulti12 (lv false false)) := by decide
theorem test_decode_multi_13 : decodeTableWord 8 0b1000_0100 = some (.sampleSelMulti13 (lv false true)) := by decide
theorem test_decode_multi_23 : decodeTableWord 8 0b0000_0011 = some (.sampleSelMulti23 (lv true false)) := by decide
theorem test_decode_multi_123 : decodeTableWord 8 0b1111_0001 = some (.sampleSelMulti123 ⟨true, true, true, true, true⟩) := by
  decide
theorem test_decode_refuses_other_lengths :
    decodeBits Cfg.default 16 0x0C = .error (.notOneSample 16) ∧
      decodeBits Cfg.default 8 0x100 = .error .bitsAboveWord := by
  constructor <;> rfl
theorem test_encode_sel_rtc : encode Cfg.default (.sampleSelRtc (lv true true)) = some 0x87#8 := by decide

/-! ### One step per vector -/

/-- F4: selection and edge in the same sample. -/
theorem test_sel_sd_f4 :
    busAfter (exec (.sampleSelSd (lv true true)) si) =
      some { busOf true (some .sdCard) true 74 0x01#8 1 none none with trace := [.select .sdCard] } := by decide
/-- F10: the example of R90. -/
theorem test_sel_sd_f10 : ∃ r : Byte,
    busAfter (exec (.sampleSelSd (lv true true)) (framing false .sdCard 0x59#8 7 none)) =
      some { busOf true (some .sdCard) true 74 0xB3#8 0 (some r) none with
        trace := [.exchange .sdCard 0xB3#8 r, .setOutByte r] } := ⟨_, rfl⟩
/-- T3's last step. -/
theorem test_sel_kbd_t3 :
    busAfter (exec (.sampleSelKbd (lv false false)) (framing true .sdCard 0x07#8 3 none)) =
      some { busOf false (some .keyboard) true 74 0x00#8 0 none none with trace := [.kbdCursorReset] } := by decide
/-- X2's last edge. -/
theorem test_sel_kbd_x2 :
    busAfter (exec (.sampleSelKbd (lv true false)) (framing false .keyboard 0x2D#8 7 (some 0x41#8))) =
      some { busOf true (some .keyboard) true 74 0x5A#8 0 (some 0x41#8) none with
        trace := [.exchange .keyboard 0x5A#8 0x41#8, .setOutByte 0x41#8] } := by decide
/-- T1 step 1. -/
theorem test_sel_rtc_t1 :
    busAfter (exec (.sampleSelRtc (lv false false)) State.reset) =
      some { busOf false (some .rtc) false 0 0x00#8 0 none none with trace := [.select .rtc] } := by decide
/-- F6's last step: a transition to None with an edge frames nothing. -/
theorem test_sel_none_f6 :
    busAfter (exec (.sampleSelNone (lv true false)) (framing false .sdCard 0x07#8 3 none)) =
      some (busOf true none true 74 0x00#8 0 none none) := by decide
/-- T4's last step. -/
theorem test_multi_12_t4 :
    busAfter (exec (.sampleSelMulti12 (lv false false)) (framing true .sdCard 0x07#8 3 none)) =
      some (busOf false none true 74 0x00#8 0 none none) := by decide
/-- Two lines asserted address no device: an edge of them is still counted before initialization. -/
theorem test_multi_13_counts :
    busAfter (exec (.sampleSelMulti13 (lv true true)) State.reset) =
      some (busOf true none false 1 0x00#8 0 none none) := by decide
/-- Two lines asserted address no device: nothing is framed. -/
theorem test_multi_23_frames_nothing :
    busAfter (exec (.sampleSelMulti23 (lv true true)) si) = some (busOf true none true 74 0x00#8 0 none none) := by
  decide
/-- T1 step 7. -/
theorem test_multi_123_t1 :
    busAfter (exec (.sampleSelMulti123 (lv false false)) (at' (busOf false (some .rtc) false 0 0x00#8 0 none none))) =
      some { busOf false none false 0 0x00#8 0 none none with trace := [.deselect .rtc] } := by decide
/-- K1: any state, then RESET, gives S0. -/
theorem test_reset_k1 :
    busAfter (exec .reset (framing true .sdCard 0x59#8 7 (some 0x41#8))) =
      some (busOf false none false 0 0x00#8 0 none none) := by decide
/-- H6's last step, the most events in one step; and H5, threshold 1. -/
theorem test_step_h6_h5 :
    busAfter (exec (.step 0x0D#8) (at' (busOf false (some .rtc) false 73 0x00#8 0 none none))) =
        some { busOf true (some .sdCard) true 74 0x00#8 0 none none with
          trace := [.deselect .rtc, .select .sdCard, .select .sdCard] } ∧
      busAfter (exec (.step 0x0D#8) (State.start cfgOne [] 0)) =
        some { busOf true (some .sdCard) true 1 0x00#8 0 none none with
          trace := [.select .sdCard, .select .sdCard] } := by decide
/-- X4: the second push wins. -/
theorem test_kbd_push_x4 :
    busAfter (exec (.kbdPush 0x42#8) (at' (busOf false none true 74 0x00#8 0 none (some 0x41#8)))) =
      some (busOf false none true 74 0x00#8 0 none (some 0x42#8)) := by decide
/-- E2 and E3: an edge, and a clock held high. -/
theorem test_edge_detect_e2_e3 :
    (wiresAfter (exec (.edgeDetect 0x0F#8) State.reset)).map StepValues.rising = some true ∧
      (wiresAfter (exec (.edgeDetect 0x0F#8) (at' (busOf true none false 1 0x00#8 0 none none)))).map
        StepValues.rising = some false := by decide
/-- E4: the stored bit follows a falling edge. -/
theorem test_edge_detect_e4 :
    busAfter (exec (.edgeDetect 0x0E#8) (at' (busOf true none false 1 0x00#8 0 none none))) =
      some (busOf false none false 1 0x00#8 0 none none) := by decide
/-- The examples of R58. -/
theorem test_select_decode_r58 :
    (wiresAfter (exec (.selectDecode 0x8D#8) State.reset)).map StepValues.dev = some (some .sdCard) ∧
      (wiresAfter (exec (.selectDecode 0x08#8) State.reset)).map StepValues.dev = some none := by decide
/-- T1 step 2: the deselect first. -/
theorem test_select_transition_t1 :
    busAfter (exec .selectTransition
        { at' (busOf false (some .rtc) false 0 0x00#8 0 none none) with
          wires := { StepValues.idle with dev := some .sdCard } }) =
      some { busOf false (some .sdCard) false 0 0x00#8 0 none none with
        trace := [.deselect .rtc, .select .sdCard] } := by decide
/-- The example of R68. -/
theorem test_handshake_count_r68 :
    busAfter (exec .handshakeCount (rising (at' (busOf true none false 5 0x00#8 0 none none)))) =
      some (busOf true none false 6 0x00#8 0 none none) := by decide
/-- The example of R69. -/
theorem test_handshake_count_r69 :
    busAfter (exec .handshakeCount (rising (at' (busOf true none false 73 0x00#8 0 none none)))) =
      some { busOf true (some .sdCard) true 74 0x00#8 0 none none with trace := [.select .sdCard] } := by decide
/-- H3's completion: no deselect of the RTC. -/
theorem test_handshake_complete_h3 :
    busAfter (exec .handshakeComplete (at' (busOf true (some .rtc) false 74 0x00#8 0 none none))) =
      some { busOf true (some .sdCard) true 74 0x00#8 0 none none with trace := [.select .sdCard] } := by decide
/-- The example of R75. -/
theorem test_frame_bit_r75 :
    busAfter (exec (.frameBit 0x8D#8) (rising (framing true .sdCard 0b0000_0101#8 3 none))) =
      some (busOf true (some .sdCard) true 74 0b0000_1011#8 4 none none) := by decide
/-- F9: no device, no framing. -/
theorem test_frame_bit_f9 : busAfter (exec (.frameBit 0x8F#8) (rising si)) = some si.bus := by decide
/-- X1's last edge: the byte goes to the keyboard, which has no key. -/
theorem test_byte_complete_x1 :
    busAfter (exec .byteComplete (framing true .keyboard 0x5A#8 7 none)) =
      some { busOf true (some .keyboard) true 74 0x5A#8 0 (some 0xFF#8) none with
        trace := [.exchange .keyboard 0x5A#8 0xFF#8, .setOutByte 0xFF#8] } := by decide
/-- 93_implementation_defined.md item 19. -/
theorem test_byte_complete_no_device : exec .byteComplete si = .fault .exchangeWithNoDevice := by rfl
/-- R83: one draw, nothing of the Bus State. -/
theorem test_exchange_sd : busAfter (exec (.exchangeSd 0xB3#8) si) = some si.bus := by rfl
/-- R86: one draw, nothing of the Bus State. -/
theorem test_exchange_rtc : busAfter (exec (.exchangeRtc 0x00#8) si) = some si.bus := by rfl
/-- X2: the key is returned and popped. -/
theorem test_exchange_kbd_x2 :
    exec (.exchangeKbd 0x5A#8) (at' (busOf false none true 74 0x00#8 0 none (some 0x41#8))) =
      .next { si with wires := { StepValues.idle with byteOut := some 0x41#8 } } := by rfl
/-- X6: a pushed 0x00 is popped either way. -/
theorem test_exchange_kbd_x6 :
    busAfter (exec (.exchangeKbd 0x00#8) (at' (busOf false none true 74 0x00#8 0 none (some 0x00#8)))) =
      some si.bus := by rfl
/-- The example of R88. -/
theorem test_out_latch_r88 :
    busAfter (exec (.outLatch 0x41#8) si) =
      some { busOf false none true 74 0x00#8 0 (some 0x41#8) none with trace := [.setOutByte 0x41#8] } := by decide
/-- E6 and E7: the first sample high is an edge, and the ignored bits do nothing. -/
theorem test_step_e6_e7 :
    busAfter (exec (.step 0x0F#8) State.reset) = some (busOf true none false 1 0x00#8 0 none none) ∧
      exec (.step 0x7F#8) State.reset = exec (.step 0x0F#8) State.reset := ⟨by decide, rfl⟩
/-- A placed word is the first instruction to run after reset. -/
theorem test_fetch_word : step (State.reset.withFetchWord 8 0x06) = exec (.sampleSelRtc (lv false false)) State.reset := by
  rfl

/-! ### Witnesses: states and operands that meet the hypotheses of the statements -/

theorem witness_DecodeOfEncodeIsTheInstruction :
    encode Cfg.default (.sampleSelSd (lv true true)) = some 0x8D#8 ∧
      encode cfgOne (.sampleSelMulti123 ⟨true, true, true, true, true⟩) = some 0xF1#8 := by decide

theorem witness_StepRunsTheDecodedInstruction :
    (placeSample 0x0C#8 State.reset).inbox = .step 0x0C#8 :: [] ∧
      (State.start Cfg.default [.reset, .step 0x0C#8] 0).inbox = .reset :: [.step 0x0C#8] ∧
      (State.start Cfg.default [.kbdPush 0x41#8] 0).inbox = .kbdPush 0x41#8 :: [] := by decide

theorem witness_NoCallNoChange : State.reset.inbox = [] := by decide

theorem witness_EdgeDetectResult : ∃ t : State, exec (.edgeDetect 0x0F#8) State.reset = .next t ∧
    State.reset.bus.prevClock = false ∧ t.bus.prevClock = true := ⟨_, rfl, rfl, rfl⟩

/-- A change to a device, a change to None, and (second clause) the same device. -/
theorem witness_SelectTransitionResult :
    { si with wires := { StepValues.idle with dev := some .rtc } }.wires.dev ≠ si.bus.selectedDevice ∧
      (framing false .rtc 0x07#8 3 none).wires.dev ≠ (framing false .rtc 0x07#8 3 none).bus.selectedDevice ∧
      si.wires.dev = si.bus.selectedDevice := by decide

theorem witness_TransitionResetsFraming :
    (framing false .sdCard 0x7F#8 7 none).wires.dev ≠ (framing false .sdCard 0x7F#8 7 none).bus.selectedDevice := by
  decide

/-- With an edge (0x8D) and without one (0x0A, and to None 0x0E). -/
theorem witness_TransitionsDiscardFramedBits :
    decodeDevice Cfg.default 0x8D#8 ≠ (framing false .keyboard 0x07#8 3 none).bus.selectedDevice ∧
      sampleRises (framing false .keyboard 0x07#8 3 none) 0x8D#8 ∧
      decodeDevice Cfg.default 0x0A#8 ≠ (framing false .sdCard 0x7F#8 7 none).bus.selectedDevice ∧
      decodeDevice Cfg.default 0x0E#8 ≠ (framing false .sdCard 0x7F#8 7 none).bus.selectedDevice := by
  unfold sampleRises
  decide

/-- No edge; an edge after initialization; an edge that leaves the handshake open; and the excepted completing edge. -/
theorem witness_SelectorRunsOnEveryStep :
    ¬ sampleRises si 0x06#8 ∧ sampleRises si 0x07#8 ∧ si.bus.initialized = true ∧
      (busAfter (exec (.step 0x07#8) State.reset)).map BusState.initialized = some false := by
  unfold sampleRises
  decide

/-- Each case of HANDSHAKE_COUNT: short of the threshold, at it, initialized, no edge. -/
theorem witness_HandshakeCountResult :
    (rising State.reset).wires.rising = true ∧ State.reset.bus.initialized = false ∧
      State.reset.bus.handshakeEdgeCount + 1 ≠ State.reset.cfg.handshakeThreshold ∧
      (at' (busOf true none false 73 0x00#8 0 none none)).bus.handshakeEdgeCount + 1 =
        State.reset.cfg.handshakeThreshold ∧
      (rising si).bus.initialized = true ∧ State.reset.wires.rising = false := by decide

/-- One short of the threshold, at the default 74 and at the smallest threshold. -/
theorem witness_ThresholdEdgeInitializes :
    sampleRises (at' (busOf false (some .rtc) false 73 0x00#8 0 none none)) 0x0D#8 ∧
      73 + 1 = Cfg.default.handshakeThreshold ∧
      sampleRises (State.start cfgOne [] 0) 0x0F#8 ∧ (State.start cfgOne [] 0).bus.initialized = false ∧
      (State.start cfgOne [] 0).bus.handshakeEdgeCount + 1 = cfgOne.handshakeThreshold := by
  unfold sampleRises
  decide

theorem witness_HandshakeGateIsOneShot :
    si.bus.initialized = true ∧ (∃ t : State, exec (.step 0x0F#8) si = .next t) ∧ Instr.step 0x0F#8 ≠ .reset ∧
      (∃ t : State, exec .handshakeCount (rising si) = .next t) := ⟨rfl, ⟨_, rfl⟩, by decide, ⟨_, rfl⟩⟩

/-- Not initialized: at the start, and one edge before the threshold. -/
theorem witness_NoExchangeBeforeInitialization :
    State.reset.bus.initialized = false ∧
      (at' (busOf false (some .sdCard) false 73 0x00#8 0 none none)).bus.initialized = false := by decide

/-- The gate closed (no device; consumed); open with no bit framed, with six and with seven. -/
theorem witness_FrameBitResult :
    (rising si).bus.selectedDevice = none ∧
      (rising (framing true .rtc 0x00#8 0 none)).wires.rising = true ∧
      (rising (framing true .rtc 0x00#8 0 none)).wires.consumed = false ∧
      (rising (framing true .rtc 0x00#8 0 none)).bus.initialized = true ∧
      (rising (framing true .rtc 0x00#8 0 none)).bus.selectedDevice ≠ none ∧
      (framing true .rtc 0x00#8 0 none).bus.bitCount.val < 7 ∧
      (framing true .rtc 0x00#8 6 none).bus.bitCount.val < 7 ∧
      (framing true .rtc 0x00#8 7 none).bus.bitCount = 7 := by decide

theorem witness_ByteCompleteResult :
    (framing true .sdCard 0xB3#8 0 none).bus.selectedDevice = some .sdCard ∧
      (framing true .keyboard 0x5A#8 0 (some 0x41#8)).bus.selectedDevice = some .keyboard ∧
      (framing true .rtc 0x00#8 0 none).bus.selectedDevice = some .rtc ∧ si.bus.selectedDevice = none := by decide

/-- An empty slot; the smallest and the largest key that is not 0x00; 0x00. -/
theorem witness_KeyboardExchangeResult :
    si.bus.kbdSlot = none ∧ (0x01#8 : Byte) ≠ 0x00#8 ∧
      (framing true .keyboard 0x00#8 0 (some 0x01#8)).bus.kbdSlot = some 0x01#8 ∧
      (framing true .keyboard 0x00#8 0 (some 0xFF#8)).bus.kbdSlot = some 0xFF#8 ∧
      (framing true .keyboard 0x00#8 0 (some 0x00#8)).bus.kbdSlot = some 0x00#8 := by decide

theorem witness_SinkReadsTheLatchedByte :
    (∃ t : State, exec (.outLatch 0x41#8) si = .next t) ∧ si.bus.outByteRegister = none := ⟨⟨_, rfl⟩, rfl⟩

/-- A state after one exchange that meets the invariant, and its next step. -/
theorem witness_EveryStepKeepsInvariant : ∃ s t : State, Inv s ∧ s.bus.initialized = true ∧ step s = .next t ∧ t ≠ s := by
  refine ⟨placeSample 0x0F#8
    (at' { busOf false (some .sdCard) true 74 0xB3#8 0 (some 0x5A#8) none with
      trace := [.select .sdCard, .exchange .sdCard 0xB3#8 0x5A#8, .setOutByte 0x5A#8] }), _, ?_, rfl, rfl, by decide⟩
  constructor <;> simp [at', busOf, placeSample, State.reset, State.start, lastOut, isPaired, isListedEvent]
  rfl

/-- 0x0F and 0x7F differ in the three ignored bits only. -/
theorem witness_IgnoredPinsDoNothing :
    (∀ j : Fin 8, j ≠ Cfg.default.unusedBit → j ≠ Cfg.default.wpBit → j ≠ Cfg.default.cdBit →
      (0x0F#8).getLsbD j = (0x7F#8).getLsbD j) ∧ (0x0F#8 : Byte) ≠ 0x7F#8 := by decide

/-- Held high with the device kept (first line), held low with a transition (second line). -/
theorem witness_HeldClockAdvancesNothing :
    (∀ w ∈ [0x0D#8, 0x8D#8], w.getLsbD Cfg.default.clkBit = (framing true .sdCard 0x00#8 1 none).bus.prevClock ∧
        decodeDevice Cfg.default w = (framing true .sdCard 0x00#8 1 none).bus.selectedDevice) ∧
      (∀ w ∈ [0x0A#8, 0x0C#8], w.getLsbD Cfg.default.clkBit = si.bus.prevClock) := by decide

theorem witness_AnswersReachOnlyTheOutputs : ∃ (s1 s2 t1 t2 : State),
    (∃ (out : Option Byte) (tr : List Event) (n : Nat),
      s2 = { s1 with draws := n, bus := { s1.bus with outByteRegister := out, trace := tr } }) ∧
    stepSamples [0x0D#8] s1 = .next t1 ∧ stepSamples [0x0D#8] s2 = .next t2 ∧ s1 ≠ s2 :=
  ⟨framing false .sdCard 0x59#8 7 none,
    { framing false .sdCard 0x59#8 7 none with
      draws := 3
      bus := { (framing false .sdCard 0x59#8 7 none).bus with
        outByteRegister := some 0xFF#8, trace := [.select .sdCard] } },
    _, _, ⟨_, _, _, rfl⟩, rfl, rfl, by decide⟩

/-- At the start, and one edge before the threshold. -/
theorem witness_HandshakeCountsRisingEdges :
    State.reset.bus.initialized = false ∧ State.reset.bus.handshakeEdgeCount < State.reset.cfg.handshakeThreshold ∧
      (at' (busOf true none false 73 0x00#8 0 none none)).bus.handshakeEdgeCount < Cfg.default.handshakeThreshold := by
  decide

/-- To a device and to None. -/
theorem witness_TransitionEdgeFramesForTheNewDevice :
    sampleRises (framing false .rtc 0x03#8 2 none) 0x8D#8 ∧
      (framing false .rtc 0x03#8 2 none).bus.initialized = true ∧
      decodeDevice Cfg.default 0x8D#8 ≠ (framing false .rtc 0x03#8 2 none).bus.selectedDevice ∧
      sampleRises (framing false .rtc 0x03#8 2 none) 0x0F#8 ∧
      decodeDevice Cfg.default 0x0F#8 ≠ (framing false .rtc 0x03#8 2 none).bus.selectedDevice := by
  unfold sampleRises
  decide

/-- F10 completes a byte; one bit less, or another device addressed, does not. -/
theorem witness_ByteDeliveredOnTheEighthEdge :
    sampleCompletesByte (framing false .sdCard 0x59#8 7 none) 0x8D#8 ∧
      ¬ sampleCompletesByte (framing false .sdCard 0x59#8 6 none) 0x8D#8 ∧
      ¬ sampleCompletesByte (framing false .sdCard 0x59#8 7 none) 0x8B#8 := by
  unfold sampleCompletesByte sampleRises
  decide

/-- Six bits framed and one edge more: the largest sum below eight. -/
theorem witness_FewerThanEightEdgesDeliverNothing :
    (framing false .sdCard 0x00#8 6 none).bus.bitCount.val +
      risingEdges (framing false .sdCard 0x00#8 6 none).bus.prevClock
        ([0x0D#8, 0x0C#8].map fun w => w.getLsbD Cfg.default.clkBit) < 8 := by decide

/-- Newly addressed (second hypothesis void), and already selected with no bit framed. -/
theorem witness_ByteIsDeliveredMsbFirst :
    si.bus.initialized = true ∧ (si.bus.selectedDevice = some .sdCard → si.bus.bitCount = 0) ∧
      (framing true .rtc 0xFF#8 0 none).bus.selectedDevice = some .rtc ∧
      (framing true .rtc 0xFF#8 0 none).bus.bitCount = 0 := by decide

theorem witness_CfgIsFixedForASession :
    (∃ t : State, exec .handshakeComplete State.reset = .next t) ∧
      (∃ t : State, step (placeSample 0x0F#8 State.reset) = .next t) := ⟨⟨_, rfl⟩, ⟨_, rfl⟩⟩

/-- Each alternative: RESET, KBD_PUSH, EXCHANGE_KBD, an instruction that leaves the slot, one that pops it. -/
theorem witness_WhoWritesTheKeySlot :
    (∃ t : State, exec .reset si = .next t) ∧ (∃ t : State, exec (.kbdPush 0x41#8) si = .next t) ∧
      (∃ t : State, exec (.exchangeKbd 0x00#8) si = .next t) ∧ (∃ t : State, exec (.step 0x0A#8) si = .next t) ∧
      (∃ t : State, exec (.step 0x0B#8) (framing false .keyboard 0x00#8 7 (some 0x41#8)) = .next t) :=
  ⟨⟨_, rfl⟩, ⟨_, rfl⟩, ⟨_, rfl⟩, ⟨_, rfl⟩, ⟨_, rfl⟩⟩

theorem witness_TraceOnlyGrows :
    (∃ t : State, exec (.outLatch 0x41#8) si = .next t) ∧ Instr.outLatch 0x41#8 ≠ .reset := ⟨⟨_, rfl⟩, by decide⟩

/-- A next state for both forms; each clause: no edge, initialized, no byte completed, keyboard not selected. -/
theorem witness_FrameOfAStep :
    (∃ t : State, exec (.step 0x0C#8) (framing false .sdCard 0x59#8 7 none) = .next t) ∧
      (∃ t : State, exec (decodeSample Cfg.default 0x0C#8) (framing false .sdCard 0x59#8 7 none) = .next t) ∧
      ¬ sampleRises (framing false .sdCard 0x59#8 7 none) 0x0C#8 ∧
      (framing false .sdCard 0x59#8 7 none).bus.initialized = true ∧
      ¬ sampleCompletesByte (framing false .sdCard 0x59#8 7 none) 0x0C#8 ∧
      (framing false .sdCard 0x59#8 7 none).bus.selectedDevice ≠ some .keyboard ∧
      decodeDevice Cfg.default 0x0C#8 = (framing false .sdCard 0x59#8 7 none).bus.selectedDevice := by
  unfold sampleCompletesByte sampleRises
  exact ⟨⟨_, rfl⟩, ⟨_, rfl⟩, by decide, by decide, by decide, by decide, by decide⟩

theorem witness_FirstHighSampleIsAnEdge :
    (0x0F#8).getLsbD Cfg.default.clkBit = true ∧ (0x0D#8).getLsbD cfgOne.clkBit = true := by decide

end Sys2Proof.Tests
end

section
/-! SUPPORT. `prev_clock` at a session start and after a bus tick, and the obligation about it (R13, R53). -/

namespace Sys2Proof.Machine

@[simp] theorem start_prevClock (c : Cfg) (calls : List HostCall) (n : Nat) :
    (State.start c calls n).bus.prevClock = false := rfl

/-- Only edge detection writes `prev_clock` in a tick: what selection, handshake and framer do after it leaves the
clock level stored, whichever of the six cases of `busTick_cases` the tick takes. -/
theorem busTick_prevClock (k m : Bool) (d : Sel) (s : State) :
    ∃ t, busTick k m d s = .next t ∧ t.bus.prevClock = k := by
  obtain ⟨t, ht, -, -, -, hcase⟩ := busTick_cases k m d s
  refine ⟨t, ht, ?_⟩
  rcases hcase with ⟨-, -, hbus⟩ | ⟨-, -, -, -, -, hbus⟩ | ⟨-, -, -, -, -, hbus⟩ | ⟨-, -, -, -, -, hbus⟩ |
    ⟨-, -, -, -, -, _, hbus⟩ | ⟨_, _, -, hk, -, -, -, -, hbus⟩
  · rw [hbus, busAfterSelection_prevClock] -- no edge
  · rw [hbus, busAfterSelection_prevClock] -- the threshold edge
  · rw [hbus, busAfterSelection_prevClock] -- an edge counted
  · rw [hbus, busAfterSelection_prevClock] -- an edge with no device
  · rw [hbus, busAfterSelection_prevClock] -- a bit framed
  · rw [hbus, hk] -- a byte completed: stored as the high level of its edge

end Sys2Proof.Machine

namespace Sys2Proof.Proofs

open Sys2Proof Sys2Proof.Machine

/-- Settles O52: the reset value, and STEP as the tick of its sample's clock bit. -/
theorem prevClockIsTheLastLevel : Obligations.PrevClockIsTheLastLevel := by
  unfold Obligations.PrevClockIsTheLastLevel
  refine ⟨start_prevClock, fun w s => ?_⟩
  rw [exec_step_eq_busTick]
  exact busTick_prevClock _ _ _ s

end Sys2Proof.Proofs
end

section
/-! SUPPORT. EDGE_DETECT and its obligation (R52, R53). -/

namespace Sys2Proof.Machine

theorem exec_edgeDetect_eq_detectEdge (w : Byte) (s : State) :
    exec (.edgeDetect w) s = .next (detectEdge (w.getLsbD s.cfg.clkBit) s) := rfl

theorem isRisingEdge_eq_true_iff {p k : Bool} : isRisingEdge p k = true ↔ p = false ∧ k = true := by
  simp [isRisingEdge]

@[simp] theorem isRisingEdge_self (k : Bool) : isRisingEdge k k = false := by
  simp [isRisingEdge]

/-- At the level the clock already has, only the edge indication is written. -/
theorem detectEdge_self (s : State) :
    detectEdge s.bus.prevClock s = { s with wires := { s.wires with rising := false } } := by
  simp only [detectEdge, isRisingEdge_self]

end Sys2Proof.Machine

namespace Sys2Proof.Proofs

open Sys2Proof Sys2Proof.Machine

/-- Settles O17: EDGE_DETECT is `detectEdge` of the sample's clock bit. -/
theorem edgeDetectResult : Obligations.EdgeDetectResult := by
  unfold Obligations.EdgeDetectResult
  refine ⟨exec_edgeDetect_eq_detectEdge, fun w s t h => ?_⟩
  rw [exec_edgeDetect_eq_detectEdge] at h
  cases h
  simp [isRisingEdge_eq_true_iff]

end Sys2Proof.Proofs
end

section
/-! SUPPORT. A step without a rising edge, runs of samples at a held clock level, and the obligation about them
(R55). -/

namespace Sys2Proof.Machine

theorem not_sampleRises_of_held {w : Byte} {s : State} (h : w.getLsbD s.cfg.clkBit = s.bus.prevClock) :
    ¬ sampleRises s w := by
  rintro ⟨hlow, hhigh⟩
  rw [h, hlow] at hhigh
  cases hhigh

/-- Without a rising edge a step ends after the selection (R90: "If not rising: return"). -/
theorem exec_step_of_not_rises {w : Byte} {s : State} (h : ¬ sampleRises s w) :
    exec (.step w) s = .next
      { s with
        bus := busAfterSelection (w.getLsbD s.cfg.clkBit) (decodeDevice s.cfg w) s
        wires := StepValues.idle } := by
  rw [exec_step_eq_busTick]
  obtain ⟨t, ht, hcfg, hinbox, hwires, hcase⟩ :=
    busTick_cases (w.getLsbD s.cfg.clkBit) (w.getLsbD s.cfg.mosiBit) (decodeDevice s.cfg w) s
  rcases hcase with ⟨-, hdraws, hbus⟩ | ⟨hp, hk, -⟩ | ⟨hp, hk, -⟩ | ⟨hp, hk, -⟩ | ⟨hp, hk, -⟩ | ⟨_, _, hp, hk, -⟩
  · rw [ht, ← hbus, ← hwires, ← hcfg, ← hinbox, ← hdraws] -- no edge
  all_goals exact absurd ⟨hp, hk⟩ h -- the five cases of an edge

theorem stepSamples_cons_of_next {w : Byte} {s u : State} (h : exec (.step w) s = .next u) (ws : List Byte) :
    stepSamples (w :: ws) s = stepSamples ws u := by
  simp [stepSamples, execAll, h]

/-- What a run at a held clock level leaves as it was, from `s` to `t`: edges are not counted, no byte moves, and
`bit_count` does not advance. -/
structure HeldFrom (s t : State) : Prop where
  cfg : t.cfg = s.cfg
  trace : ∃ l : List Event, t.bus.trace = s.bus.trace ++ l ∧ ∀ e ∈ l, isTransfer e = false
  handshakeEdgeCount : t.bus.handshakeEdgeCount = s.bus.handshakeEdgeCount
  initialized : t.bus.initialized = s.bus.initialized
  prevClock : t.bus.prevClock = s.bus.prevClock
  bitCount : t.bus.bitCount = s.bus.bitCount ∨ t.bus.bitCount = 0

theorem HeldFrom.refl (s : State) : HeldFrom s s :=
  ⟨rfl, ⟨[], by simp⟩, rfl, rfl, rfl, .inl rfl⟩

theorem HeldFrom.trans {s u t : State} (hu : HeldFrom s u) (ht : HeldFrom u t) : HeldFrom s t where
  cfg := ht.cfg.trans hu.cfg
  trace := by
    obtain ⟨l, hl, hquiet⟩ := hu.trace
    obtain ⟨l', hl', hquiet'⟩ := ht.trace
    exact ⟨l ++ l', by rw [hl', hl, List.append_assoc], List.forall_mem_append.mpr ⟨hquiet, hquiet'⟩⟩
  handshakeEdgeCount := ht.handshakeEdgeCount.trans hu.handshakeEdgeCount
  initialized := ht.initialized.trans hu.initialized
  prevClock := ht.prevClock.trans hu.prevClock
  bitCount := by
    rcases ht.bitCount with hstay | hzero
    · exact hstay ▸ hu.bitCount
    · exact .inr hzero

/-- One step at the held level: only a transition's notifications and its framing reset can happen, and with the
selected device still addressed not even these. -/
theorem exec_step_of_held {w : Byte} {s : State} (h : w.getLsbD s.cfg.clkBit = s.bus.prevClock) :
    ∃ u : State, exec (.step w) s = .next u ∧ HeldFrom s u ∧
      (decodeDevice s.cfg w = s.bus.selectedDevice → u.bus = s.bus) := by
  have hstep := exec_step_of_not_rises (not_sampleRises_of_held h)
  rw [h] at hstep
  refine ⟨_, hstep, ?_, fun hd => busAfterSelection_same hd⟩
  constructor
  case trace => exact ⟨_, busAfterSelection_trace .., fun _ => tableEvents_not_transfer⟩
  case bitCount =>
    dsimp only
    rw [busAfterSelection_bitCount]
    split_ifs
    · exact .inl rfl
    · exact .inr rfl
  all_goals simp

/-- Any run of samples at the held level, one held step after another. -/
theorem stepSamples_of_held (ws : List Byte) (s : State) (h : ∀ w ∈ ws, w.getLsbD s.cfg.clkBit = s.bus.prevClock) :
    ∃ t : State, stepSamples ws s = .next t ∧ HeldFrom s t ∧
      ((∀ w ∈ ws, decodeDevice s.cfg w = s.bus.selectedDevice) → t.bus = s.bus) := by
  induction ws generalizing s with
  | nil => exact ⟨s, rfl, .refl s, fun _ => rfl⟩
  | cons w ws ih =>
    obtain ⟨hw, hws⟩ := List.forall_mem_cons.mp h
    obtain ⟨u, hstep, hsu, hkeep⟩ := exec_step_of_held hw
    obtain ⟨t, hrun, hut, hkeep'⟩ := ih u (by rwa [hsu.cfg, hsu.prevClock])
    refine ⟨t, (stepSamples_cons_of_next hstep ws).trans hrun, hsu.trans hut, fun haddr => ?_⟩
    obtain ⟨hd, hds⟩ := List.forall_mem_cons.mp haddr
    have hbus : u.bus = s.bus := hkeep hd
    rw [hkeep' (by rwa [hsu.cfg, hbus]), hbus]

end Sys2Proof.Machine

namespace Sys2Proof.Proofs

open Sys2Proof Sys2Proof.Machine

/-- Settles O40: EDGE_DETECT at the held level, the stored clock level of O52, and the run of held steps. -/
theorem heldClockAdvancesNothing : Obligations.HeldClockAdvancesNothing := by
  unfold Obligations.HeldClockAdvancesNothing
  refine ⟨fun w s h => ?_, prevClockIsTheLastLevel.2, fun ws s h => ?_⟩
  · rw [exec_edgeDetect_eq_detectEdge, h, detectEdge_self]
    exact ⟨_, rfl, rfl, rfl⟩
  · obtain ⟨t, hrun, hheld, hkeep⟩ := stepSamples_of_held ws s h
    obtain ⟨l, hl, hquiet⟩ := hheld.trace
    exact ⟨t, l, hrun, hl, hquiet, hheld.handshakeEdgeCount, hheld.initialized, hheld.prevClock, hheld.bitCount, hkeep⟩

end Sys2Proof.Proofs
end

section
/-! SUPPORT. SELECT_TRANSITION and the obligation about its framing reset (R60, R63). -/

namespace Sys2Proof.Machine

theorem exec_selectTransition_eq_transition (s : State) : exec .selectTransition s = .next (transition s) := rfl

end Sys2Proof.Machine

namespace Sys2Proof.Proofs

open Sys2Proof Sys2Proof.Machine

/-- Settles O20: a changed device makes the transition of `transition_of_change`, whose appended events are the table's
and move no byte. -/
theorem transitionResetsFraming : Obligations.TransitionResetsFraming := by
  unfold Obligations.TransitionResetsFraming
  intro s hchange
  refine ⟨transition s, tableEvents s.cfg.rtcDeselectNotify s.bus.selectedDevice s.wires.dev,
    exec_selectTransition_eq_transition s, ?_⟩
  rw [transition_of_change hchange]
  exact ⟨rfl, rfl, rfl, rfl, fun _ => tableEvents_not_transfer⟩

end Sys2Proof.Proofs
end

section
/-! SUPPORT. The handshake gate only moves forward under every instruction but RESET, and the obligation about it
(R71). -/

namespace Sys2Proof.Machine

/-- From `s` to `t` the handshake gate only moves forward: it is not re-armed, and the count is not lowered. -/
structure GateForward (s t : State) : Prop where
  initialized : s.bus.initialized = true → t.bus.initialized = true
  handshakeEdgeCount : s.bus.handshakeEdgeCount ≤ t.bus.handshakeEdgeCount

/-- A result that keeps both fields of the gate moves it forward trivially. -/
theorem GateForward.of_same {s t : State} (hinit : t.bus.initialized = s.bus.initialized)
    (hcount : t.bus.handshakeEdgeCount = s.bus.handshakeEdgeCount) : GateForward s t :=
  ⟨hinit.trans, hcount.ge⟩

theorem GateForward.trans {s u t : State} (hu : GateForward s u) (ht : GateForward u t) : GateForward s t :=
  ⟨ht.initialized ∘ hu.initialized, hu.handshakeEdgeCount.trans ht.handshakeEdgeCount⟩

theorem transition_gateForward (s : State) : GateForward s (transition s) := by
  by_cases hsame : s.wires.dev = s.bus.selectedDevice
  · rw [transition_of_same hsame]
    exact .of_same rfl rfl
  · rw [transition_of_change hsame]
    exact .of_same rfl rfl

/-- The completion of the handshake opens the gate and leaves the count. -/
theorem completeHandshake_gateForward (s : State) : GateForward s (completeHandshake s) := by
  unfold completeHandshake
  split_ifs -- whether the completion marks the SD card as selected
  · exact ⟨fun _ => rfl, le_rfl⟩
  · exact ⟨fun _ => rfl, le_rfl⟩

/-- An initialized state's handshake counts and consumes nothing (R71). -/
theorem countHandshake_of_initialized {s : State} (h : s.bus.initialized = true) :
    countHandshake s = { s with wires := { s.wires with consumed := false } } :=
  countHandshake_of_inert (by simp [h])

/-- The count stays, or is one more; the threshold edge makes it the threshold and opens the gate. -/
theorem countHandshake_gateForward (s : State) : GateForward s (countHandshake s) := by
  by_cases hedge : s.wires.rising = true ∧ s.bus.initialized = false
  · by_cases hn : s.bus.handshakeEdgeCount + 1 = s.cfg.handshakeThreshold
    · rw [countHandshake_of_threshold hedge hn]
      exact ⟨fun _ => rfl, hn ▸ Nat.le_succ _⟩
    · rw [countHandshake_of_count hedge hn]
      exact ⟨id, Nat.le_succ _⟩
  · rw [countHandshake_of_inert hedge]
    exact .of_same rfl rfl

theorem exchange_gateForward {b : Byte} {s t : State} (h : exchange b s = .next t) : GateForward s t := by
  cases hdev : s.bus.selectedDevice with
  | none => simp [exchange, hdev] at h
  | some d =>
    rw [exchange_of_device hdev] at h
    cases h
    exact .of_same (by simp) (by simp)

theorem completeByte_gateForward {s t : State} (h : completeByte s = .next t) : GateForward s t := by
  obtain ⟨hinit, hcount⟩ := exchange_gateForward h
  exact ⟨hinit, hcount⟩

theorem frame_gateForward {m : Bool} {s t : State} (h : frame m s = .next t) : GateForward s t := by
  cases hgate : framerGate s with
  | false =>
    rw [frame_of_closed hgate] at h
    cases h
    exact .of_same rfl rfl
  | true =>
    by_cases hbit : s.bus.bitCount.val + 1 < 8
    · rw [frame_of_bit hgate hbit] at h
      cases h
      exact .of_same rfl rfl
    · rw [frame_of_eighth hgate hbit] at h
      obtain ⟨hinit, hcount⟩ := completeByte_gateForward h
      exact ⟨hinit, hcount⟩

/-- A bus tick is a chain of sub-operations, each of which moves the gate forward only. -/
theorem busTick_gateForward {k m : Bool} {d : Sel} {s t : State} (h : busTick k m d s = .next t) :
    GateForward s t := by
  obtain ⟨u, hframe, rfl⟩ := andThen_eq_next h
  have hdecoded : GateForward s (setDecoded d (detectEdge k (clearStepValues s))) := .of_same rfl rfl
  have hcounted := (hdecoded.trans (transition_gateForward _)).trans (countHandshake_gateForward _)
  exact (hcounted.trans (frame_gateForward hframe)).trans (.of_same rfl rfl)

/-- Every instruction but RESET moves the gate forward only. -/
theorem exec_gateForward {i : Instr} {s t : State} (h : exec i s = .next t) (hi : i ≠ .reset) : GateForward s t := by
  cases i with
  | reset => exact absurd rfl hi
  | step _ | sampleSelSd _ | sampleSelKbd _ | sampleSelRtc _ | sampleSelNone _ | sampleSelMulti12 _
  | sampleSelMulti13 _ | sampleSelMulti23 _ | sampleSelMulti123 _ => exact busTick_gateForward h
  | selectTransition =>
    cases h
    exact transition_gateForward s
  | handshakeCount =>
    cases h
    exact countHandshake_gateForward s
  | handshakeComplete =>
    cases h
    exact completeHandshake_gateForward s
  | frameBit _ => exact frame_gateForward h
  | byteComplete => exact completeByte_gateForward h
  | kbdPush _ | edgeDetect _ | selectDecode _ | exchangeSd _ | exchangeKbd _ | exchangeRtc _ | outLatch _ =>
    cases h
    exact .of_same rfl rfl

end Sys2Proof.Machine

namespace Sys2Proof.Proofs

open Sys2Proof Sys2Proof.Machine

/-- Settles O26: the inert counter of an initialized state, the gate that every instruction but RESET moves forward
only, and RESET's Bus State of R29. -/
theorem handshakeGateIsOneShot : Obligations.HandshakeGateIsOneShot := by
  unfold Obligations.HandshakeGateIsOneShot
  refine ⟨fun s hinit => congrArg _ (countHandshake_of_initialized hinit), fun i s t h hi => ?_,
    fun s => ⟨_, rfl, rfl⟩⟩
  obtain ⟨hinit, hcount⟩ := exec_gateForward h hi
  exact ⟨hinit, hcount⟩

end Sys2Proof.Proofs
end

section
/-! SUPPORT. BYTE_COMPLETE, the taken byte at the selected device's branch, and the obligation about it (R76, R82,
R88). -/

namespace Sys2Proof.Machine

theorem exec_byteComplete_eq_completeByte (s : State) : exec .byteComplete s = completeByte s := rfl

theorem exchange_of_no_device {s : State} (h : s.bus.selectedDevice = none) (b : Byte) :
    exchange b s = .fault .exchangeWithNoDevice := by
  simp [exchange, h]

/-- What the framer hands to the exchange: the frame is empty again, and the accumulator is the byte taken (R76). -/
def takeByte (s : State) : State :=
  { s with
    bus := { s.bus with bitCount := 0 }
    wires := { s.wires with completed := some s.bus.inByteAccumulator } }

theorem completeByte_eq_exchange (s : State) :
    completeByte s = exchange s.bus.inByteAccumulator (takeByte s) := rfl

/-- No device sees the framer's count or the taken byte's wire, so its answer is the one before the byte was taken. -/
theorem answerOf_takeByte (d : Device) (b : Byte) (s : State) : answerOf d b (takeByte s) = answerOf d b s := by
  cases d <;> rfl

/-- The branch on the taken byte: apart from what was taken, its effect is the branch's on the state before. -/
theorem branchOf_takeByte (d : Device) (b : Byte) (s : State) :
    branchOf d b (takeByte s) =
      { s with
        draws := (branchOf d b s).draws
        wires := { s.wires with completed := some s.bus.inByteAccumulator, byteOut := some (answerOf d b s) }
        bus := { s.bus with bitCount := 0, kbdSlot := (branchOf d b s).bus.kbdSlot } } := by
  cases d <;> rfl

/-- A byte completed with a device selected: its branch, the `Exchange` event, the latch and its push. -/
theorem completeByte_of_device {s : State} {d : Device} (h : s.bus.selectedDevice = some d) :
    completeByte s = .next
      { s with
        draws := (branchOf d s.bus.inByteAccumulator s).draws
        wires :=
          { s.wires with
            completed := some s.bus.inByteAccumulator
            byteOut := some (answerOf d s.bus.inByteAccumulator s) }
        bus :=
          { s.bus with
            bitCount := 0
            outByteRegister := some (answerOf d s.bus.inByteAccumulator s)
            kbdSlot := (branchOf d s.bus.inByteAccumulator s).bus.kbdSlot
            trace := s.bus.trace ++
              [.exchange d s.bus.inByteAccumulator (answerOf d s.bus.inByteAccumulator s),
                .setOutByte (answerOf d s.bus.inByteAccumulator s)] } } := by
  have hsel : (takeByte s).bus.selectedDevice = some d := h
  rw [completeByte_eq_exchange, exchange_of_device hsel, answerOf_takeByte, branchOf_takeByte]

theorem completeByte_of_no_device {s : State} (h : s.bus.selectedDevice = none) :
    completeByte s = .fault .exchangeWithNoDevice :=
  exchange_of_no_device (s := takeByte s) h _

end Sys2Proof.Machine

namespace Sys2Proof.Proofs

open Sys2Proof Sys2Proof.Machine

/-- Settles O29: the device's branch run by itself answers `answerOf`, and BYTE_COMPLETE is `completeByte`, with a
device selected and with none. -/
theorem byteCompleteResult : Obligations.ByteCompleteResult := by
  unfold Obligations.ByteCompleteResult
  refine ⟨fun s d hdev => ?_, fun s hnone => ?_⟩
  · refine ⟨branchOf d s.bus.inByteAccumulator s, answerOf d s.bus.inByteAccumulator s, ?_, ?_, ?_⟩
    · cases d <;> rfl -- each EXCHANGE instruction is its device's branch
    · rw [branchOf_wires]
    · rw [exec_byteComplete_eq_completeByte, completeByte_of_device hdev]
  · rw [exec_byteComplete_eq_completeByte, completeByte_of_no_device hnone]

end Sys2Proof.Proofs
end

section
/-! SUPPORT. The encoder and the decoder as inverses, and the obligations about them (R43, R45, R50). -/

namespace Sys2Proof

theorem encode_instrOfClass (c : Cfg) (k : SelClass) (f : SampleFields) :
    encode c (instrOfClass k f) = some (encodeClass c k f) := by
  rcases k with (_ | _ | _) | _ | _ | _ | _ | _ <;> rfl

/-- Only the instruction of a class has a word, and it is the class's. -/
theorem exists_class_of_encode {c : Cfg} {i : Instr} {w : Byte} (h : encode c i = some w) :
    ∃ k f, i = instrOfClass k f ∧ encodeClass c k f = w := by
  cases i with
  | sampleSelSd f => exact ⟨.one .sdCard, f, rfl, Option.some.inj h⟩
  | sampleSelKbd f => exact ⟨.one .keyboard, f, rfl, Option.some.inj h⟩
  | sampleSelRtc f => exact ⟨.one .rtc, f, rfl, Option.some.inj h⟩
  | sampleSelNone f => exact ⟨.noLine, f, rfl, Option.some.inj h⟩
  | sampleSelMulti12 f => exact ⟨.lines12, f, rfl, Option.some.inj h⟩
  | sampleSelMulti13 f => exact ⟨.lines13, f, rfl, Option.some.inj h⟩
  | sampleSelMulti23 f => exact ⟨.lines23, f, rfl, Option.some.inj h⟩
  | sampleSelMulti123 f => exact ⟨.lines123, f, rfl, Option.some.inj h⟩
  | _ => cases h

theorem sampleClass_encodeClass (c : Cfg) (k : SelClass) (f : SampleFields) :
    sampleClass c (encodeClass c k f) = k := by
  obtain ⟨h1, h2, h3⟩ := lines_encodeClass c k f
  rw [sampleClass, h1, h2, h3, classOfLines_asserts]

theorem decodeSample_encodeClass (c : Cfg) (k : SelClass) (f : SampleFields) :
    decodeSample c (encodeClass c k f) = instrOfClass k f := by
  rw [decodeSample, sampleClass_encodeClass, sampleFields_encodeClass]

/-- The bits of a class's word: at each signal's place its level, whichever of the eight it is. -/
theorem getLsbD_encodeClass (c : Cfg) (k : SelClass) (f : SampleFields) (j : Fin 8) :
    (encodeClass c k f).getLsbD j =
      (lineLevel c (k.asserts1 c) && decide (c.sel1Bit = j) || lineLevel c (k.asserts2 c) && decide (c.sel2Bit = j) ||
        lineLevel c (k.asserts3 c) && decide (c.sel3Bit = j) ||
        (f.clk && decide (c.clkBit = j) || f.mosi && decide (c.mosiBit = j) || f.cardDetect && decide (c.cdBit = j) ||
          f.writeProtect && decide (c.wpBit = j) || f.unused && decide (c.unusedBit = j))) := by
  simp only [encodeClass, selectField, fieldBits, BitVec.getLsbD_or, getLsbD_place]

/-- The class of a sample gives each select line the level the sample has. -/
theorem lineLevel_sampleClass (c : Cfg) (w : Byte) :
    lineLevel c ((sampleClass c w).asserts1 c) = level w c.sel1Bit ∧
      lineLevel c ((sampleClass c w).asserts2 c) = level w c.sel2Bit ∧
      lineLevel c ((sampleClass c w).asserts3 c) = level w c.sel3Bit := by
  obtain ⟨h1, h2, h3⟩ := asserts_classOfLines c (line1Asserted c w) (line2Asserted c w) (line3Asserted c w)
  rw [sampleClass, h1, h2, h3]
  exact ⟨lineLevel_asserted .., lineLevel_asserted .., lineLevel_asserted ..⟩

/-- No bit of a sample is lost by decoding: each is the place of exactly one signal, and the class and the fields keep
the level of every signal. -/
theorem encodeClass_sampleClass (c : Cfg) (w : Byte) : encodeClass c (sampleClass c w) (sampleFields c w) = w := by
  obtain ⟨h1, h2, h3⟩ := lineLevel_sampleClass c w
  have hdistinct := c.bits_nodup
  simp only [CfgFields.bits, List.nodup_cons, List.mem_cons, List.not_mem_nil, or_false, not_or] at hdistinct
  refine BitVec.eq_of_getLsbD_eq fun j hj => ?_
  have hplace := c.mem_bits ⟨j, hj⟩
  simp only [CfgFields.bits, List.mem_cons, List.not_mem_nil, or_false] at hplace
  rw [getLsbD_encodeClass c _ _ ⟨j, hj⟩, h1, h2, h3]
  simp only [sampleFields, level]
  grind

/-- `smp(d, m, clk)` is the word of the class of `sel(d)` with the ignored bits 0 (R50). -/
theorem smp_eq_encodeClass (c : Cfg) (d : Sel) (m clk : Bool) :
    Machine.smp c d m clk = encodeClass c (Machine.classOfSel d) ⟨clk, m, false, false, false⟩ := by
  have hzero : ∀ i : Fin 8, place i false = 0#8 := by decide
  simp only [Machine.smp, Machine.selWord, encodeClass, fieldBits, hzero, BitVec.or_zero]
  ac_rfl

@[simp] theorem device_classOfSel (d : Sel) : (Machine.classOfSel d).device = d := by
  cases d <;> rfl

theorem getLsbD_clkBit_smp (c : Cfg) (d : Sel) (m clk : Bool) : (Machine.smp c d m clk).getLsbD c.clkBit = clk := by
  have h := congrArg SampleFields.clk (sampleFields_encodeClass c (Machine.classOfSel d) ⟨clk, m, false, false, false⟩)
  rwa [← smp_eq_encodeClass] at h

theorem getLsbD_mosiBit_smp (c : Cfg) (d : Sel) (m clk : Bool) : (Machine.smp c d m clk).getLsbD c.mosiBit = m := by
  have h := congrArg SampleFields.mosi (sampleFields_encodeClass c (Machine.classOfSel d) ⟨clk, m, false, false, false⟩)
  rwa [← smp_eq_encodeClass] at h

theorem decodeDevice_smp (c : Cfg) (d : Sel) (m clk : Bool) :
    Machine.decodeDevice c (Machine.smp c d m clk) = d := by
  rw [decodeDevice_eq_class, smp_eq_encodeClass, sampleClass_encodeClass, device_classOfSel]

end Sys2Proof

namespace Sys2Proof.Proofs

open Sys2Proof Sys2Proof.Machine

/-- Settles O1: an instruction with a word is a class with its fields, and both are read back from its word. -/
theorem decodeOfEncodeIsTheInstruction : Obligations.DecodeOfEncodeIsTheInstruction := by
  unfold Obligations.DecodeOfEncodeIsTheInstruction
  intro c i w h
  obtain ⟨k, f, rfl, rfl⟩ := exists_class_of_encode h
  exact decodeSample_encodeClass c k f

/-- Settles O2: the word of the decoded class and fields has the sample's level at each of the eight places. -/
theorem encodeOfDecodeIsTheSample : Obligations.EncodeOfDecodeIsTheSample := by
  unfold Obligations.EncodeOfDecodeIsTheSample
  intro c w
  rw [decodeSample, encode_instrOfClass, encodeClass_sampleClass]

/-- Settles O6: `smp` is an encoded class, so decoding it gives that class back. -/
theorem smpDecodesToItsOperands : Obligations.SmpDecodesToItsOperands := by
  unfold Obligations.SmpDecodesToItsOperands
  intro c d m clk
  refine ⟨?_, decodeDevice_smp c d m clk⟩
  rw [smp_eq_encodeClass, decodeSample_encodeClass]

end Sys2Proof.Proofs
end

section
/-! SUPPORT. A bus tick, composed of its sub-operations, is the flat pseudocode of R90; and the obligations about the
three ways a tick is run: by STEP, by a sample class, by the sub-operations one after another. -/

namespace Sys2Proof.Machine

/-! ### The parts of R90 -/

/-- R90's one notification of deselection is R61's. -/
theorem flat_deselect_eq (c : Cfg) (old : Sel) :
    (if old = some .rtc then (if c.rtcDeselectNotify then [Event.deselect .rtc] else []) else []) =
      deselectEvents c old := by
  by_cases h : old = some .rtc
  · simp only [deselectEvents, h, true_and, if_true]
  · simp only [deselectEvents, h, false_and, if_false]

/-- R90's three notifications of selection, of which at most one occurs, are R62's. -/
theorem flat_select_eq (d : Sel) :
    (if d = some .sdCard then [Event.select .sdCard] else []) ++ (if d = some .rtc then [Event.select .rtc] else []) ++
      (if d = some .keyboard then [Event.kbdCursorReset] else []) = selectEvents d := by
  rcases d with _ | (_ | _ | _) <;> rfl

/-- R90's selection is the transition after the clock level is stored. -/
theorem flatSelect_eq_busAfterSelection (k : Bool) (d : Sel) (s : State) :
    flatSelect s.cfg d { s.bus with prevClock := k } = busAfterSelection k d s := by
  by_cases h : d = s.bus.selectedDevice
  · rw [busAfterSelection_same h, flatSelect, if_pos h]
  · rw [busAfterSelection, if_neg h, flatSelect, if_neg h, ← events_of_transition s.cfg h, ← flat_deselect_eq,
      ← flat_select_eq]
    simp only [List.append_assoc]

/-- A counted edge does R90's handshake and consumes the edge. -/
theorem countHandshake_eq_flatHandshake {s : State} (h : s.wires.rising = true ∧ s.bus.initialized = false) :
    countHandshake s = { s with wires := { s.wires with consumed := true }, bus := flatHandshake s.cfg s.bus } := by
  by_cases hn : s.bus.handshakeEdgeCount + 1 = s.cfg.handshakeThreshold
  · rw [countHandshake_of_threshold h hn]
    simp only [flatHandshake, hn, if_true]
  · rw [countHandshake_of_count h hn]
    simp only [flatHandshake, hn, if_false]

/-- R90's shift of the accumulator. -/
theorem flat_shift_eq_shiftIn (a : Byte) (m : Bool) :
    (a <<< 1) ||| BitVec.setWidth 8 (BitVec.ofBool m) = shiftIn a m := by
  cases m <;> rfl

/-- R90's answer, slot and draws are those of the device's branch. -/
theorem flatAnswer_eq_branchOf (d : Device) (b : Byte) (s : State) :
    flatAnswer s.cfg d b s.bus s.draws = (answerOf d b s, (branchOf d b s).bus.kbdSlot, (branchOf d b s).draws) := by
  cases d with
  | sdCard | rtc => rfl
  | keyboard =>
    cases hslot : s.bus.kbdSlot with
    | none => simp [flatAnswer, answerOf, branchOf, keyboardAnswer, hslot]
    | some key =>
      by_cases hkey : key = 0x00#8
      · subst hkey
        simp only [flatAnswer, answerOf, branchOf, keyboardAnswer, keyboardExchange, hslot, ne_eq, not_true, if_false,
          if_true]
        split_ifs <;> rfl -- the free choice of R85
      · simp [flatAnswer, answerOf, branchOf, keyboardAnswer, keyboardExchange, hslot, hkey]

/-- The framer on an edge after initialization does R90's framing and exchange. -/
theorem frame_eq_flatFrame {s : State} (hrise : s.wires.rising = true) (hfree : s.wires.consumed = false)
    (hinit : s.bus.initialized = true) (m : Bool) :
    andThen (frame m s) clearStepValues = .next
      { s with
        bus := (flatFrame s.cfg m s.bus s.draws).1
        draws := (flatFrame s.cfg m s.bus s.draws).2
        wires := StepValues.idle } := by
  cases hdev : s.bus.selectedDevice with
  | none =>
    rw [frame_of_closed (by simp [framerGate, hdev])]
    simp only [flatFrame, hdev, andThen_next, clearStepValues]
  | some d =>
    have hgate : framerGate s = true := by simp [framerGate, hrise, hfree, hinit, hdev]
    by_cases hbit : s.bus.bitCount.val < 7
    · rw [frame_of_bit hgate (by omega)]
      simp only [flatFrame, hdev, hbit, dif_pos, flat_shift_eq_shiftIn, andThen_next, clearStepValues]
    · rw [frame_of_eighth hgate (by omega), completeByte_of_device (d := d) (by exact hdev)]
      simp only [flatFrame, hdev, hbit, flat_shift_eq_shiftIn, flatAnswer_eq_branchOf, andThen_next, clearStepValues]
      cases d <;> rfl

/-! ### The whole tick -/

/-- A bus tick is R90's pseudocode. -/
theorem busTick_eq_flatStep (k m : Bool) (d : Sel) (s : State) : busTick k m d s = .next (flatStep k m d s) := by
  obtain ⟨j, x, hselected⟩ := selected_of_tick k d s
  simp only [busTick, hselected, flatStep, flatTick, flatSelect_eq_busAfterSelection]
  by_cases hedge : s.bus.prevClock = false ∧ k = true
  · have hrise : isRisingEdge s.bus.prevClock k = true := isRisingEdge_eq_true_iff.mpr hedge
    rw [if_neg (not_not_intro hedge)]
    cases hinit : (busAfterSelection k d s).initialized with
    | false =>
      rw [countHandshake_eq_flatHandshake ⟨hrise, hinit⟩, frame_of_closed (by simp [framerGate])]
      rfl
    | true =>
      rw [countHandshake_of_initialized hinit]
      exact frame_eq_flatFrame hrise rfl hinit m
  · have hrise : isRisingEdge s.bus.prevClock k = false := by
      rw [← Bool.not_eq_true, isRisingEdge_eq_true_iff]
      exact hedge
    rw [if_pos hedge, countHandshake_of_inert (by simp [hrise]), frame_of_closed (by simp [framerGate, hrise])]
    rfl

/-! ### STEP, the sample classes and the sub-operations -/

theorem exec_step_eq_flatStep (w : Byte) (s : State) :
    exec (.step w) s = .next (flatStep (w.getLsbD s.cfg.clkBit) (w.getLsbD s.cfg.mosiBit) (decodeDevice s.cfg w) s) :=
  (exec_step_eq_busTick w s).trans (busTick_eq_flatStep ..)

theorem exec_decodeSample_eq_exec_step (w : Byte) (s : State) :
    exec (decodeSample s.cfg w) s = exec (.step w) s := by
  rw [decodeSample, exec_instrOfClass, exec_step_eq_busTick, decodeDevice_eq_class]
  rfl

@[simp] theorem countHandshake_cfg (s : State) : (countHandshake s).cfg = s.cfg := by
  by_cases h : s.wires.rising = true ∧ s.bus.initialized = false
  · rw [countHandshake_eq_flatHandshake h]
  · rw [countHandshake_of_inert h]

/-- The sub-operations before the framer answer states, each from the one before; the framer's answer is theirs. -/
theorem execAll_subOperations (w : Byte) (s : State) :
    execAll [.edgeDetect w, .selectDecode w, .selectTransition, .handshakeCount, .frameBit w] s =
      frame (mosiOf s.cfg w)
        (countHandshake (transition (setDecoded (decodeDevice s.cfg w) (detectEdge (clkOf s.cfg w) s)))) := by
  have hframe (u : State) : execAll [.frameBit w] u = frame (mosiOf u.cfg w) u := by
    obtain ⟨t, ht⟩ := frame_total (mosiOf u.cfg w) u
    have hexec : exec (.frameBit w) u = .next t := ht
    simp only [execAll, hexec, ht]
  refine (hframe _).trans ?_
  rw [countHandshake_cfg, transition_cfg]
  rfl

end Sys2Proof.Machine

namespace Sys2Proof.Proofs

open Sys2Proof Sys2Proof.Machine

/-- Settles O13: STEP is the tick of its sample's operands, and a tick is R90's pseudocode. -/
theorem stepIsThePrintedPseudocode : Obligations.StepIsThePrintedPseudocode := by
  unfold Obligations.StepIsThePrintedPseudocode
  exact exec_step_eq_flatStep

/-- Settles O14: each class is the tick of its fields and its device. -/
theorem sampleClassesAreThePrintedPseudocode : Obligations.SampleClassesAreThePrintedPseudocode := by
  unfold Obligations.SampleClassesAreThePrintedPseudocode
  intro f s
  have hclass (k : SelClass) : exec (instrOfClass k f) s = .next (flatStep f.clk f.mosi k.device s) := by
    rw [exec_instrOfClass, busTick_eq_flatStep]
  exact ⟨hclass (.one .sdCard), hclass (.one .keyboard), hclass (.one .rtc), hclass .noLine, hclass .lines12,
    hclass .lines13, hclass .lines23, hclass .lines123⟩

/-- Settles O15: both are the tick of the sample's levels, and the two decodes of the device agree. -/
theorem stepRunsItsSampleClass : Obligations.StepRunsItsSampleClass := by
  unfold Obligations.StepRunsItsSampleClass
  exact fun w s => (exec_decodeSample_eq_exec_step w s).symm

/-- Settles O16: the tick is written as these sub-operations, the last of which always answers. -/
theorem stepIsItsSubOperations : Obligations.StepIsItsSubOperations := by
  unfold Obligations.StepIsItsSubOperations
  intro w s
  obtain ⟨t, ht⟩ := frame_total (mosiOf s.cfg w) (countHandshake (transition
    (setDecoded (decodeDevice s.cfg w) (detectEdge (clkOf s.cfg w) (clearStepValues s)))))
  refine ⟨t, (execAll_subOperations w (clearStepValues s)).trans ht, ?_⟩
  exact congrArg (andThen · clearStepValues) ht

end Sys2Proof.Proofs
end

section
/-! SUPPORT. Everything one STEP can do, in six named cases, and what follows from them for each field of the Bus
State; and the obligations about the events and the frame of one step. -/

namespace Sys2Proof.Machine

/-- The six effects of a step on the Bus State and the draws, the cases of `busTick_cases` for a sample. -/
inductive StepEffect (w : Byte) (s t : State) : Prop where
  | noEdge (still : ¬ sampleRises s w) (draws : t.draws = s.draws)
      (bus : t.bus = busAfterSelection (w.getLsbD s.cfg.clkBit) (decodeDevice s.cfg w) s)
  | threshold (rises : sampleRises s w) (closed : s.bus.initialized = false)
      (last : s.bus.handshakeEdgeCount + 1 = s.cfg.handshakeThreshold) (draws : t.draws = s.draws)
      (bus : t.bus =
        { busAfterSelection (w.getLsbD s.cfg.clkBit) (decodeDevice s.cfg w) s with
          handshakeEdgeCount := s.cfg.handshakeThreshold
          initialized := true
          selectedDevice := if s.cfg.handshakeSetsSelection then some .sdCard else decodeDevice s.cfg w
          bitCount := 0
          inByteAccumulator := 0x00#8
          trace := (busAfterSelection (w.getLsbD s.cfg.clkBit) (decodeDevice s.cfg w) s).trace ++ [.select .sdCard] })
  | counted (rises : sampleRises s w) (closed : s.bus.initialized = false)
      (short : s.bus.handshakeEdgeCount + 1 ≠ s.cfg.handshakeThreshold) (draws : t.draws = s.draws)
      (bus : t.bus =
        { busAfterSelection (w.getLsbD s.cfg.clkBit) (decodeDevice s.cfg w) s with
          handshakeEdgeCount := s.bus.handshakeEdgeCount + 1 })
  | unaddressed (rises : sampleRises s w) (opened : s.bus.initialized = true) (nobody : decodeDevice s.cfg w = none)
      (draws : t.draws = s.draws)
      (bus : t.bus = busAfterSelection (w.getLsbD s.cfg.clkBit) (decodeDevice s.cfg w) s)
  | framed (rises : sampleRises s w) (opened : s.bus.initialized = true) (addressed : decodeDevice s.cfg w ≠ none)
      (draws : t.draws = s.draws)
      (room : (busAfterSelection (w.getLsbD s.cfg.clkBit) (decodeDevice s.cfg w) s).bitCount.val + 1 < 8)
      (bus : t.bus =
        { busAfterSelection (w.getLsbD s.cfg.clkBit) (decodeDevice s.cfg w) s with
          inByteAccumulator :=
            shiftIn (busAfterSelection (w.getLsbD s.cfg.clkBit) (decodeDevice s.cfg w) s).inByteAccumulator
              (w.getLsbD s.cfg.mosiBit)
          bitCount :=
            ⟨(busAfterSelection (w.getLsbD s.cfg.clkBit) (decodeDevice s.cfg w) s).bitCount.val + 1, room⟩ })
  | completed (d : Device) (bOut : Byte) (rises : sampleRises s w) (opened : s.bus.initialized = true)
      (addressed : decodeDevice s.cfg w = some d) (selected : s.bus.selectedDevice = some d)
      (seven : s.bus.bitCount = 7)
      (bus : t.bus =
        { s.bus with
          prevClock := true
          inByteAccumulator := shiftIn s.bus.inByteAccumulator (w.getLsbD s.cfg.mosiBit)
          bitCount := 0
          kbdSlot := if d = .keyboard then none else s.bus.kbdSlot
          outByteRegister := some bOut
          trace := s.bus.trace ++
            [.exchange d (shiftIn s.bus.inByteAccumulator (w.getLsbD s.cfg.mosiBit)) bOut, .setOutByte bOut] })

/-- `t` is what STEP with the sample `w` makes of `s`. -/
structure StepTo (w : Byte) (s t : State) : Prop where
  cfg : t.cfg = s.cfg
  inbox : t.inbox = s.inbox
  wires : t.wires = StepValues.idle
  effect : StepEffect w s t

/-- STEP always answers a next state, and it is one of the six cases. -/
theorem exec_step_stepTo (w : Byte) (s : State) : ∃ t, exec (.step w) s = .next t ∧ StepTo w s t := by
  rw [exec_step_eq_busTick]
  obtain ⟨t, ht, hcfg, hinbox, hwires, hcase⟩ :=
    busTick_cases (w.getLsbD s.cfg.clkBit) (w.getLsbD s.cfg.mosiBit) (decodeDevice s.cfg w) s
  refine ⟨t, ht, hcfg, hinbox, hwires, ?_⟩
  rcases hcase with ⟨hstill, hdraws, hbus⟩ | ⟨hp, hk, hi, hn, hdraws, hbus⟩ | ⟨hp, hk, hi, hn, hdraws, hbus⟩ |
    ⟨hp, hk, hi, hd, hdraws, hbus⟩ | ⟨hp, hk, hi, hd, hdraws, hb, hbus⟩ | ⟨d, r, hp, hk, hi, hd, hsel, hb, hbus⟩
  · exact .noEdge hstill hdraws hbus
  · exact .threshold ⟨hp, hk⟩ hi hn hdraws hbus
  · exact .counted ⟨hp, hk⟩ hi hn hdraws hbus
  · exact .unaddressed ⟨hp, hk⟩ hi hd hdraws hbus
  · exact .framed ⟨hp, hk⟩ hi hd hdraws hb hbus
  · exact .completed d r ⟨hp, hk⟩ hi hd hsel hb hbus

theorem stepTo_of_exec {w : Byte} {s t : State} (h : exec (.step w) s = .next t) : StepTo w s t := by
  obtain ⟨u, hu, hstep⟩ := exec_step_stepTo w s
  cases hu.symm.trans h
  exact hstep

/-- A change of device, or no initialization yet: the step completes no byte. -/
theorem not_completesByte_of_change {w : Byte} {s : State} (h : decodeDevice s.cfg w ≠ s.bus.selectedDevice) :
    ¬ sampleCompletesByte s w := fun ⟨_, _, hsame, _⟩ => h hsame

theorem not_completesByte_of_closed {w : Byte} {s : State} (h : s.bus.initialized = false) :
    ¬ sampleCompletesByte s w := by
  rintro ⟨-, hopened, -⟩
  simp [h] at hopened

theorem not_completesByte_of_still {w : Byte} {s : State} (h : ¬ sampleRises s w) :
    ¬ sampleCompletesByte s w := fun ⟨hrises, _⟩ => h hrises

/-- The `Select(SDCard)` of the handshake's completion, in a step that sets `initialized` (R69, R92). -/
def completionEvents (s t : State) : List Event :=
  if s.bus.initialized = false ∧ t.bus.initialized = true then [.select .sdCard] else []

/-- A step that completes no byte moves none: its events are the transition's and the completion's. -/
structure Quiet (w : Byte) (s t : State) : Prop where
  trace : t.bus.trace = s.bus.trace ++
    tableEvents s.cfg.rtcDeselectNotify s.bus.selectedDevice (decodeDevice s.cfg w) ++ completionEvents s t
  outByteRegister : t.bus.outByteRegister = s.bus.outByteRegister
  kbdSlot : t.bus.kbdSlot = s.bus.kbdSlot
  draws : t.draws = s.draws

theorem StepTo.quiet {w : Byte} {s t : State} (h : StepTo w s t) (hno : ¬ sampleCompletesByte s w) :
    Quiet w s t := by
  cases h.effect with
  | noEdge _ hdraws hbus | unaddressed _ _ _ hdraws hbus | counted _ _ _ hdraws hbus | framed _ _ _ hdraws _ hbus =>
    constructor <;> simp [hbus, hdraws, completionEvents]
  | threshold _ hclosed _ hdraws hbus => constructor <;> simp [hbus, hdraws, completionEvents, hclosed]
  | completed d r hrises hopened haddr hsel hseven _ =>
    exact absurd ⟨hrises, hopened, haddr.trans hsel.symm, by simp [hsel], hseven⟩ hno

/-- A step that completes a byte delivers it to the selected device. -/
theorem StepTo.delivers {w : Byte} {s t : State} (h : StepTo w s t) (hbyte : sampleCompletesByte s w) :
    ∃ (d : Device) (bOut : Byte), s.bus.selectedDevice = some d ∧
      t.bus =
        { s.bus with
          prevClock := true
          inByteAccumulator := shiftIn s.bus.inByteAccumulator (w.getLsbD s.cfg.mosiBit)
          bitCount := 0
          kbdSlot := if d = .keyboard then none else s.bus.kbdSlot
          outByteRegister := some bOut
          trace := s.bus.trace ++
            [.exchange d (shiftIn s.bus.inByteAccumulator (w.getLsbD s.cfg.mosiBit)) bOut, .setOutByte bOut] } := by
  obtain ⟨hrises, hopened, hsame, hdev, hseven⟩ := hbyte
  cases h.effect with
  | noEdge hstill => exact absurd hrises hstill
  | threshold _ hclosed | counted _ hclosed => simp [hclosed] at hopened
  | unaddressed _ _ hnobody => exact absurd (hsame.symm.trans hnobody) hdev
  | framed _ _ _ _ hroom => simp [hsame, hseven] at hroom
  | completed d bOut _ _ _ hsel _ hbus => exact ⟨d, bOut, hsel, hbus⟩

end Sys2Proof.Machine
end

section
/-! SUPPORT. What one step does to the handshake, the framing and the selection, and the obligations about one step. -/

namespace Sys2Proof.Machine

/-- `t` differs from `s` at most in what a step may write. -/
theorem StepTo.eq_with {w : Byte} {s t : State} (h : StepTo w s t) :
    t = { s with bus := t.bus, draws := t.draws, wires := StepValues.idle } := by
  rw [← h.cfg, ← h.inbox, ← h.wires]

/-- After initialization a step keeps the handshake's fields. -/
theorem StepTo.gate_of_opened {w : Byte} {s t : State} (h : StepTo w s t) (hopened : s.bus.initialized = true) :
    t.bus.handshakeEdgeCount = s.bus.handshakeEdgeCount ∧ t.bus.initialized = true := by
  cases h.effect with
  | noEdge _ _ hbus | unaddressed _ _ _ _ hbus | framed _ _ _ _ _ hbus => simp [hbus, hopened]
  | threshold _ hclosed | counted _ hclosed => simp [hclosed] at hopened
  | completed _ _ _ _ _ _ _ hbus => simp [hbus, hopened]

/-- Without a rising edge a step keeps the handshake's fields. -/
theorem StepTo.gate_of_still {w : Byte} {s t : State} (h : StepTo w s t) (hstill : ¬ sampleRises s w) :
    t.bus.handshakeEdgeCount = s.bus.handshakeEdgeCount ∧ t.bus.initialized = s.bus.initialized := by
  cases h.effect with
  | noEdge _ _ hbus => simp [hbus]
  | threshold hrises | counted hrises | unaddressed hrises | framed hrises | completed _ _ hrises =>
    exact absurd hrises hstill

/-- Before initialization a rising edge is counted, and the one that reaches the threshold initializes. -/
theorem StepTo.gate_of_edge {w : Byte} {s t : State} (h : StepTo w s t) (hclosed : s.bus.initialized = false)
    (hrises : sampleRises s w) :
    t.bus.handshakeEdgeCount = s.bus.handshakeEdgeCount + 1 ∧
      (t.bus.initialized = true ↔ s.bus.handshakeEdgeCount + 1 = s.cfg.handshakeThreshold) := by
  cases h.effect with
  | noEdge hstill => exact absurd hrises hstill
  | threshold _ _ hlast _ hbus => simp [hbus, hlast]
  | counted _ _ hshort _ hbus => simp [hbus, hclosed, hshort]
  | unaddressed _ hopened | framed _ hopened | completed _ _ _ hopened => simp [hclosed] at hopened

/-- The edges of one sample: one on a rising edge, else none. -/
def edgeOf (s : State) (w : Byte) : Nat := if s.bus.prevClock = false ∧ w.getLsbD s.cfg.clkBit = true then 1 else 0

theorem edgeOf_of_rises {w : Byte} {s : State} (h : sampleRises s w) : edgeOf s w = 1 := if_pos h

theorem edgeOf_of_still {w : Byte} {s : State} (h : ¬ sampleRises s w) : edgeOf s w = 0 := if_neg h

/-- Before initialization every edge is counted. -/
theorem StepTo.count_of_closed {w : Byte} {s t : State} (h : StepTo w s t) (hclosed : s.bus.initialized = false) :
    t.bus.handshakeEdgeCount = s.bus.handshakeEdgeCount + edgeOf s w := by
  by_cases hrises : sampleRises s w
  · rw [(h.gate_of_edge hclosed hrises).1, edgeOf_of_rises hrises]
  · rw [(h.gate_of_still hrises).1, edgeOf_of_still hrises, Nat.add_zero]

/-- Unless the step completes the handshake, the decoded device is the selected one after it (R59). -/
theorem StepTo.selectedDevice {w : Byte} {s t : State} (h : StepTo w s t)
    (hno : s.bus.initialized = true ∨ t.bus.initialized = false) :
    t.bus.selectedDevice = decodeDevice s.cfg w := by
  cases h.effect with
  | noEdge _ _ hbus | counted _ _ _ _ hbus | unaddressed _ _ _ _ hbus | framed _ _ _ _ _ hbus => simp [hbus]
  | threshold _ hclosed _ _ hbus => simp [hbus, hclosed] at hno
  | completed _ _ _ _ haddr hsel _ hbus => simp [hbus, haddr, hsel]

/-- What is framed before initialization stays or is reset; no bit is added. -/
theorem StepTo.framing_of_closed {w : Byte} {s t : State} (h : StepTo w s t) (hclosed : s.bus.initialized = false) :
    (t.bus.bitCount = 0 ∧ t.bus.inByteAccumulator = 0x00#8) ∨
      (t.bus.bitCount = s.bus.bitCount ∧ t.bus.inByteAccumulator = s.bus.inByteAccumulator) := by
  cases h.effect with
  | noEdge _ _ hbus | counted _ _ _ _ hbus =>
    by_cases hsame : decodeDevice s.cfg w = s.bus.selectedDevice
    · exact .inr (by simp [hbus, hsame])
    · exact .inl (by simp [hbus, hsame])
  | threshold _ _ _ _ hbus => exact .inl (by simp [hbus])
  | unaddressed _ hopened | framed _ hopened | completed _ _ _ hopened => simp [hclosed] at hopened

/-- The events of a transition are the table's, in which the same device twice gives none. -/
theorem transition_trace (s : State) : (transition s).bus.trace =
    s.bus.trace ++ tableEvents s.cfg.rtcDeselectNotify s.bus.selectedDevice s.wires.dev := by
  by_cases h : s.wires.dev = s.bus.selectedDevice
  · simp [transition_of_same h, h]
  · rw [transition_of_change h]

/-- The first bit shifted into an empty accumulator. -/
theorem shiftIn_zero (m : Bool) : shiftIn 0x00#8 m = if m then 0x01#8 else 0x00#8 := by
  cases m <;> rfl

/-- A change of device discards the framed bits; after it nothing is framed, or this step's own bit (R63, R79). -/
theorem StepTo.framing_of_change {w : Byte} {s t : State} (h : StepTo w s t)
    (hchange : decodeDevice s.cfg w ≠ s.bus.selectedDevice) :
    (t.bus.bitCount = 0 ∧ t.bus.inByteAccumulator = 0x00#8) ∨
      (sampleRises s w ∧ s.bus.initialized = true ∧ t.bus.bitCount = 1 ∧
        t.bus.inByteAccumulator = if w.getLsbD s.cfg.mosiBit then 0x01#8 else 0x00#8) := by
  cases h.effect with
  | noEdge _ _ hbus | counted _ _ _ _ hbus | unaddressed _ _ _ _ hbus => exact .inl (by simp [hbus, hchange])
  | threshold _ _ _ _ hbus => exact .inl (by simp [hbus])
  | framed hrises hopened _ _ _ hbus =>
    exact .inr ⟨hrises, hopened, by simp [hbus, hchange], by simp [hbus, hchange, shiftIn_zero]⟩
  | completed _ _ _ _ haddr hsel => exact absurd (haddr.trans hsel.symm) hchange

theorem completionEvents_eq (s t : State) : completionEvents s t = [] ∨ completionEvents s t = [.select .sdCard] := by
  unfold completionEvents
  split_ifs
  · exact .inr rfl
  · exact .inl rfl

theorem eq_select_of_mem_completionEvents {s t : State} {e : Event} (h : e ∈ completionEvents s t) :
    e = .select .sdCard := by
  rcases completionEvents_eq s t with hnil | hone
  · simp [hnil] at h
  · simpa [hone] using h

theorem completionEvents_of_opened {s t : State} (h : s.bus.initialized = true) : completionEvents s t = [] := by
  simp [completionEvents, h]

theorem completionEvents_of_same {s t : State} (h : t.bus.initialized = s.bus.initialized) :
    completionEvents s t = [] := by
  simp [completionEvents, h]

/-- A quiet step appends events that move no byte. -/
theorem Quiet.appends {w : Byte} {s t : State} (h : Quiet w s t) :
    ∃ l : List Event, t.bus.trace = s.bus.trace ++ l ∧ ∀ e ∈ l, isTransfer e = false := by
  refine ⟨_, h.trace.trans (List.append_assoc ..), fun e he => ?_⟩
  rcases List.mem_append.mp he with he | he
  · exact tableEvents_not_transfer he
  · rw [eq_select_of_mem_completionEvents he]
    rfl

/-- An entry of the table is at most one `Deselect`, then at most one `Select` or `KbdCursorReset`. -/
theorem tableEvents_split (n : Bool) (old dev : Sel) : ∃ e1 e2 : List Event, e1 ++ e2 = tableEvents n old dev ∧
    (e1 = [] ∨ e1 = [.deselect .rtc]) ∧
    (e2 = [] ∨ e2 = [.select .sdCard] ∨ e2 = [.select .rtc] ∨ e2 = [.kbdCursorReset]) := by
  by_cases h : dev = old
  · exact ⟨[], [], by simp [h], .inl rfl, .inl rfl⟩
  · refine ⟨if old = some .rtc ∧ n = true then [.deselect .rtc] else [], selectEvents dev, ?_, ?_, ?_⟩
    · cases n <;> rcases old with _ | (_ | _ | _) <;> rcases dev with _ | (_ | _ | _) <;>
        simp_all [selectEvents, tableEvents]
    · split_ifs
      · exact .inr rfl
      · exact .inl rfl
    · rcases dev with _ | (_ | _ | _) <;> simp [selectEvents]

end Sys2Proof.Machine

namespace Sys2Proof.Proofs

open Sys2Proof Sys2Proof.Machine

/-- Settles O21: a change of device leaves the framing of `StepTo.framing_of_change`, and the step is quiet. -/
theorem transitionsDiscardFramedBits : Obligations.TransitionsDiscardFramedBits := by
  unfold Obligations.TransitionsDiscardFramedBits
  intro w s hchange
  obtain ⟨t, ht, hstep⟩ := exec_step_stepTo w s
  exact ⟨t, ht, hstep.framing_of_change hchange, (hstep.quiet (not_completesByte_of_change hchange)).appends⟩

/-- Settles O22: the events after the table's are an exchange, of a step that does not change the device, or the
completion's. -/
theorem selectorRunsOnEveryStep : Obligations.SelectorRunsOnEveryStep := by
  unfold Obligations.SelectorRunsOnEveryStep
  intro w s
  obtain ⟨t, ht, hstep⟩ := exec_step_stepTo w s
  by_cases hbyte : sampleCompletesByte s w
  · obtain ⟨d, bOut, -, hbus⟩ := hstep.delivers hbyte
    obtain ⟨hrises, -, hsame, -⟩ := hbyte
    refine ⟨t, [.exchange d (shiftIn s.bus.inByteAccumulator (w.getLsbD s.cfg.mosiBit)) bOut, .setOutByte bOut], ht, ?_,
      absurd hrises, hstep.selectedDevice⟩
    rw [hbus, hsame, tableEvents_self, List.append_nil]
  · refine ⟨t, _, ht, (hstep.quiet hbyte).trace, fun hstill => ?_, hstep.selectedDevice⟩
    exact completionEvents_of_same (hstep.gate_of_still hstill).2

/-- Settles O38: the table's entry in its two parts, then the completion's event or the delivery's two. -/
theorem eventsOfOneStep : Obligations.EventsOfOneStep := by
  unfold Obligations.EventsOfOneStep
  intro w s
  obtain ⟨t, ht, hstep⟩ := exec_step_stepTo w s
  obtain ⟨e1, e2, htable, h1, h2⟩ :=
    tableEvents_split s.cfg.rtcDeselectNotify s.bus.selectedDevice (decodeDevice s.cfg w)
  by_cases hbyte : sampleCompletesByte s w
  · obtain ⟨d, bOut, hsel, hbus⟩ := hstep.delivers hbyte
    obtain ⟨-, hopened, hsame, -⟩ := hbyte
    have hnil : e1 ++ e2 = [] := by simpa [hsame] using htable
    refine ⟨t, e1, e2, completionEvents s t,
      [.exchange d (shiftIn s.bus.inByteAccumulator (w.getLsbD s.cfg.mosiBit)) bOut, .setOutByte bOut], ht, ?_, htable,
      h1, h2, rfl, .inr ⟨d, _, bOut, rfl, hopened, hsel, by rw [hbus, hsel]⟩, .inl (completionEvents_of_opened hopened)⟩
    rw [hbus, completionEvents_of_opened hopened, List.append_assoc s.bus.trace, hnil, List.append_nil,
      List.append_nil]
  · refine ⟨t, e1, e2, completionEvents s t, [], ht, ?_, htable, h1, h2, rfl, .inl rfl, .inr rfl⟩
    rw [(hstep.quiet hbyte).trace, ← htable]
    simp only [List.append_assoc, List.append_nil]

/-- Settles O44: the two sides of `sampleCompletesByte`, a delivery and a quiet step. -/
theorem byteDeliveredOnTheEighthEdge : Obligations.ByteDeliveredOnTheEighthEdge := by
  unfold Obligations.ByteDeliveredOnTheEighthEdge
  intro w s
  obtain ⟨t, ht, hstep⟩ := exec_step_stepTo w s
  by_cases hbyte : sampleCompletesByte s w
  · obtain ⟨d, bOut, hsel, hbus⟩ := hstep.delivers hbyte
    rw [shiftIn_eq_ofNat] at hbus
    refine ⟨t, _, ht, by rw [hbus], iff_of_true ⟨_, List.mem_cons_self, rfl⟩ hbyte, fun _ => ?_, absurd hbyte⟩
    exact ⟨d, bOut, hsel, rfl, by rw [hbus], by rw [hbus]⟩
  · have hquiet := hstep.quiet hbyte
    obtain ⟨l, hl, hmove⟩ := hquiet.appends
    refine ⟨t, l, ht, hl, iff_of_false ?_ hbyte, fun h => absurd h hbyte,
      fun _ => ⟨hquiet.outByteRegister, hquiet.kbdSlot, hquiet.draws⟩⟩
    rintro ⟨e, he, htransfer⟩
    simp [hmove e he] at htransfer

/-- Settles O51: the class does what STEP does; the outputs stay in a quiet step, and a delivery to another device
than the keyboard leaves the slot. -/
theorem frameOfAStep : Obligations.FrameOfAStep := by
  unfold Obligations.FrameOfAStep
  intro w s t h
  rw [exec_decodeSample_eq_exec_step, or_self] at h
  have hstep := stepTo_of_exec h
  have houtputs (hno : ¬ sampleCompletesByte s w) :
      t.bus.outByteRegister = s.bus.outByteRegister ∧ t.bus.kbdSlot = s.bus.kbdSlot ∧ t.draws = s.draws :=
    ⟨(hstep.quiet hno).outByteRegister, (hstep.quiet hno).kbdSlot, (hstep.quiet hno).draws⟩
  refine ⟨hstep.cfg, hstep.inbox, hstep.wires, fun hstill => ?_, hstep.gate_of_opened, houtputs, fun hkbd => ?_,
    fun hsame hstill => ?_⟩
  · obtain ⟨hcount, hinit⟩ := hstep.gate_of_still hstill
    exact ⟨hcount, hinit, houtputs (not_completesByte_of_still hstill)⟩
  · by_cases hbyte : sampleCompletesByte s w
    · obtain ⟨d, bOut, hsel, hbus⟩ := hstep.delivers hbyte
      have hd : d ≠ .keyboard := fun hd => hkbd (hd ▸ hsel)
      rw [hbus, if_neg hd]
    · exact (houtputs hbyte).2.1
  · cases (exec_step_of_not_rises hstill).symm.trans h
    exact busAfterSelection_same hsame

/-- Settles O25: of a step's effects only the threshold edge's meets the hypotheses. -/
theorem thresholdEdgeInitializes : Obligations.ThresholdEdgeInitializes := by
  unfold Obligations.ThresholdEdgeInitializes
  intro w s hrises hclosed hlast
  obtain ⟨t, ht, hstep⟩ := exec_step_stepTo w s
  rw [ht, hstep.eq_with]
  cases hstep.effect with
  | threshold _ _ _ hdraws hbus => simp [hbus, hdraws, hrises.2]
  | noEdge hstill => exact absurd hrises hstill
  | counted _ _ hshort => exact absurd hlast hshort
  | unaddressed _ hopened | framed _ hopened | completed _ _ _ hopened => simp [hclosed] at hopened

/-- Settles O43: an edge with no device addressed, or a bit framed after the framing reset. -/
theorem transitionEdgeFramesForTheNewDevice : Obligations.TransitionEdgeFramesForTheNewDevice := by
  unfold Obligations.TransitionEdgeFramesForTheNewDevice
  intro w s hrises hopened hchange
  obtain ⟨t, ht, hstep⟩ := exec_step_stepTo w s
  rw [ht, hstep.eq_with]
  cases hstep.effect with
  | unaddressed _ _ hnobody hdraws hbus =>
    rw [hbus, hdraws, busAfterSelection, if_neg hchange, hrises.2]
    simp [hnobody]
  | framed _ _ haddr hdraws _ hbus => simp [hbus, hdraws, hrises.2, haddr, hchange, shiftIn_zero, hopened]
  | noEdge hstill => exact absurd hrises hstill
  | threshold _ hclosed | counted _ hclosed => simp [hclosed] at hopened
  | completed _ _ _ _ haddr hsel => exact absurd (haddr.trans hsel.symm) hchange

/-- Settles O53: the first sample rises and is counted, and its step is quiet. -/
theorem firstHighSampleIsAnEdge : Obligations.FirstHighSampleIsAnEdge := by
  unfold Obligations.FirstHighSampleIsAnEdge
  intro w c calls n hhigh
  obtain ⟨t, ht, hstep⟩ := exec_step_stepTo w (State.start c calls n)
  have hrises : sampleRises (State.start c calls n) w := ⟨rfl, hhigh⟩
  have hquiet := hstep.quiet (not_completesByte_of_closed rfl)
  exact ⟨t, completionEvents (State.start c calls n) t, ht, (hstep.gate_of_edge rfl hrises).1, hquiet.trace⟩

/-- Settles O27: a step before initialization is quiet, and its edge is only counted. -/
theorem noExchangeBeforeInitialization : Obligations.NoExchangeBeforeInitialization := by
  unfold Obligations.NoExchangeBeforeInitialization
  intro w s hclosed
  obtain ⟨t, ht, hstep⟩ := exec_step_stepTo w s
  have hquiet := hstep.quiet (not_completesByte_of_closed hclosed)
  refine ⟨t, transition (setDecoded (decodeDevice s.cfg w) s), completionEvents s t, ht, rfl, ?_, ?_, ?_, hquiet.draws,
    hquiet.kbdSlot, hquiet.outByteRegister, hstep.framing_of_closed hclosed,
    hstep.count_of_closed hclosed⟩
  · rw [hquiet.trace, transition_trace]
    rfl
  · exact completionEvents_eq s t
  · exact ⟨_, transition_trace _, fun _ => tableEvents_not_transfer⟩

end Sys2Proof.Proofs
end

section
/-! SUPPORT. Runs of samples and their rising edges, and the obligations about counting them (R57, R66, R68, R80). -/

namespace Sys2Proof.Machine

/-- The rising edges of a run of samples from a state. -/
def edgesOfRun (s : State) (ws : List Byte) : Nat :=
  risingEdges s.bus.prevClock (ws.map fun w => w.getLsbD s.cfg.clkBit)

theorem StepTo.prevClock {w : Byte} {s t : State} (h : StepTo w s t) : t.bus.prevClock = w.getLsbD s.cfg.clkBit := by
  cases h.effect with
  | noEdge _ _ hbus | threshold _ _ _ _ hbus | counted _ _ _ _ hbus | unaddressed _ _ _ _ hbus
  | framed _ _ _ _ _ hbus => simp only [hbus, busAfterSelection_prevClock]
  | completed _ _ hrises _ _ _ _ hbus => rw [hbus, hrises.2]

/-- The edges of a run: the first sample's, and those of the rest from the state after it. -/
theorem StepTo.edgesOfRun_cons {w : Byte} {s u : State} (h : StepTo w s u) (ws : List Byte) :
    edgesOfRun s (w :: ws) = edgeOf s w + edgesOfRun u ws := by
  simp only [edgesOfRun, edgeOf, List.map_cons, risingEdges, h.prevClock, h.cfg]

/-- A step frames at most the bit of its edge. -/
theorem StepTo.bitCount_le {w : Byte} {s t : State} (h : StepTo w s t) :
    t.bus.bitCount.val ≤ s.bus.bitCount.val + edgeOf s w := by
  have hselected (k : Bool) (d : Sel) : (busAfterSelection k d s).bitCount.val ≤ s.bus.bitCount.val := by
    rw [busAfterSelection_bitCount]
    split_ifs <;> simp
  cases h.effect with
  | noEdge _ _ hbus | counted _ _ _ _ hbus | unaddressed _ _ _ _ hbus =>
    rw [hbus]
    exact (hselected _ _).trans (Nat.le_add_right ..)
  | threshold _ _ _ _ hbus | completed _ _ _ _ _ _ _ hbus => simp [hbus]
  | framed hrises _ _ _ _ hbus =>
    rw [hbus, edgeOf_of_rises hrises]
    exact Nat.add_le_add_right (hselected _ _) 1

/-- After initialization no run changes the handshake's fields. -/
theorem stepSamples_of_opened (ws : List Byte) (s : State) (hopened : s.bus.initialized = true) :
    ∃ t : State, stepSamples ws s = .next t ∧ t.bus.handshakeEdgeCount = s.bus.handshakeEdgeCount ∧
      t.bus.initialized = true := by
  induction ws generalizing s with
  | nil => exact ⟨s, rfl, rfl, hopened⟩
  | cons w ws ih =>
    obtain ⟨u, hu, hstep⟩ := exec_step_stepTo w s
    obtain ⟨hcount, hinit⟩ := hstep.gate_of_opened hopened
    obtain ⟨t, hrun, hcount', hinit'⟩ := ih u hinit
    exact ⟨t, (stepSamples_cons_of_next hu ws).trans hrun, hcount'.trans hcount, hinit'⟩

/-- Before initialization a run counts its rising edges, up to the threshold, and initializes exactly at it. -/
theorem stepSamples_of_closed (ws : List Byte) (s : State) (hclosed : s.bus.initialized = false)
    (hbelow : s.bus.handshakeEdgeCount < s.cfg.handshakeThreshold) :
    ∃ t : State, stepSamples ws s = .next t ∧
      t.bus.handshakeEdgeCount = min s.cfg.handshakeThreshold (s.bus.handshakeEdgeCount + edgesOfRun s ws) ∧
      (t.bus.initialized = true ↔ s.cfg.handshakeThreshold ≤ s.bus.handshakeEdgeCount + edgesOfRun s ws) := by
  induction ws generalizing s with
  | nil =>
    have hnone : edgesOfRun s [] = 0 := rfl
    rw [hnone, Nat.add_zero, Nat.min_eq_right hbelow.le]
    exact ⟨s, rfl, rfl, by simp [hclosed, hbelow]⟩
  | cons w ws ih =>
    obtain ⟨u, hu, hstep⟩ := exec_step_stepTo w s
    have hcount := hstep.count_of_closed hclosed
    rw [stepSamples_cons_of_next hu, hstep.edgesOfRun_cons, ← Nat.add_assoc, ← hcount]
    cases hinit : u.bus.initialized with
    | false =>
      -- still counting: the rest of the run from `u`
      have hshort : u.bus.handshakeEdgeCount < s.cfg.handshakeThreshold := by
        by_cases hrises : sampleRises s w
        · obtain ⟨hnext, hdone⟩ := hstep.gate_of_edge hclosed hrises
          rw [hinit] at hdone
          simp at hdone
          omega
        · rwa [(hstep.gate_of_still hrises).1]
      rw [← hstep.cfg] at hshort ⊢
      exact ih u hinit hshort
    | true =>
      -- the threshold edge: the rest of the run counts nothing
      have hfull : u.bus.handshakeEdgeCount = s.cfg.handshakeThreshold := by
        by_cases hrises : sampleRises s w
        · obtain ⟨hnext, hdone⟩ := hstep.gate_of_edge hclosed hrises
          rw [hnext, hdone.mp hinit]
        · simp [(hstep.gate_of_still hrises).2, hclosed] at hinit
      obtain ⟨t, hrun, hkeep, hdone⟩ := stepSamples_of_opened ws u hinit
      exact ⟨t, hrun, by omega, iff_of_true hdone (by omega)⟩

/-- Fewer than eight edges, with the bits already framed: every step of the run is quiet. -/
theorem stepSamples_of_few_edges (ws : List Byte) (s : State) (hfew : s.bus.bitCount.val + edgesOfRun s ws < 8) :
    ∃ (t : State) (l : List Event), stepSamples ws s = .next t ∧
      t.bus.trace = s.bus.trace ++ l ∧ (∀ e ∈ l, isTransfer e = false) ∧
      t.bus.outByteRegister = s.bus.outByteRegister ∧ t.bus.kbdSlot = s.bus.kbdSlot ∧ t.draws = s.draws := by
  induction ws generalizing s with
  | nil => exact ⟨s, [], rfl, by simp, by simp, rfl, rfl, rfl⟩
  | cons w ws ih =>
    obtain ⟨u, hu, hstep⟩ := exec_step_stepTo w s
    rw [hstep.edgesOfRun_cons] at hfew
    have hno : ¬ sampleCompletesByte s w := by
      rintro ⟨hrises, -, -, -, hseven⟩
      rw [edgeOf_of_rises hrises, hseven] at hfew
      simp at hfew
      omega
    have hquiet := hstep.quiet hno
    obtain ⟨l, hl, hmove⟩ := hquiet.appends
    have hle := hstep.bitCount_le
    obtain ⟨t, l', hrun, hl', hmove', hout, hslot, hdraws⟩ := ih u (by omega)
    refine ⟨t, l ++ l', (stepSamples_cons_of_next hu ws).trans hrun, by rw [hl', hl, List.append_assoc],
      List.forall_mem_append.mpr ⟨hmove, hmove'⟩, hout.trans hquiet.outByteRegister, hslot.trans hquiet.kbdSlot,
      hdraws.trans hquiet.draws⟩

end Sys2Proof.Machine

namespace Sys2Proof.Proofs

open Sys2Proof Sys2Proof.Machine

/-- Settles O42, by induction on the samples: an edge is counted until the threshold, and nothing after it. -/
theorem handshakeCountsRisingEdges : Obligations.HandshakeCountsRisingEdges := by
  unfold Obligations.HandshakeCountsRisingEdges
  exact stepSamples_of_closed

/-- Settles O45, by induction on the samples: the eighth bit needs an eighth edge. -/
theorem fewerThanEightEdgesDeliverNothing : Obligations.FewerThanEightEdgesDeliverNothing := by
  unfold Obligations.FewerThanEightEdgesDeliverNothing
  exact stepSamples_of_few_edges

/-- Settles O47: the low sample makes no edge and leaves `prev_clock` 0, from which the high one rises. -/
theorem bitPulseMakesOneEdge : Obligations.BitPulseMakesOneEdge := by
  unfold Obligations.BitPulseMakesOneEdge
  intro d b s
  obtain ⟨t, ht, hlow⟩ := exec_step_stepTo (smp s.cfg d b false) s
  obtain ⟨u, hu, hhigh⟩ := exec_step_stepTo (smp s.cfg d b true) t
  have hclock : t.bus.prevClock = false := hlow.prevClock.trans (getLsbD_clkBit_smp ..)
  have hlevel : (smp s.cfg d b true).getLsbD t.cfg.clkBit = true := by rw [hlow.cfg, getLsbD_clkBit_smp]
  refine ⟨t, u, ht, hu, fun hrises => ?_, ⟨hclock, hlevel⟩, hhigh.prevClock.trans hlevel⟩
  cases hrises.2.symm.trans (getLsbD_clkBit_smp ..)

end Sys2Proof.Proofs
end

section
/-! SUPPORT. Device answers, draws and past events reach nothing but the outputs: R90's tick commutes with erasing
them; and the obligation about it (R21, R91). -/

namespace Sys2Proof.Machine

/-- The Bus State without what a device's answers reach: the outgoing register and the trace. -/
def BusState.eraseOutputs (st : BusState) : BusState := { st with outByteRegister := none, trace := [] }

/-- The state without what a device's answers reach. -/
def eraseOutputs (s : State) : State := { s with draws := 0, bus := s.bus.eraseOutputs }

@[simp] theorem eraseOutputs_prevClock (st : BusState) : st.eraseOutputs.prevClock = st.prevClock := rfl
@[simp] theorem eraseOutputs_initialized (st : BusState) : st.eraseOutputs.initialized = st.initialized := rfl
@[simp] theorem eraseOutputs_cfg (s : State) : (eraseOutputs s).cfg = s.cfg := rfl
@[simp] theorem eraseOutputs_inbox (s : State) : (eraseOutputs s).inbox = s.inbox := rfl
@[simp] theorem eraseOutputs_bus (s : State) : (eraseOutputs s).bus = s.bus.eraseOutputs := rfl

/-- Equal after erasing is to differ only in the outgoing register, the trace and the draw number. -/
theorem eraseOutputs_eq_iff {s1 s2 : State} : eraseOutputs s1 = eraseOutputs s2 ↔
    ∃ (out : Option Byte) (tr : List Event) (n : Nat),
      s2 = { s1 with draws := n, bus := { s1.bus with outByteRegister := out, trace := tr } } := by
  constructor
  · intro h
    refine ⟨s2.bus.outByteRegister, s2.bus.trace, s2.draws, ?_⟩
    obtain ⟨c1, ⟨⟩, x1, i1, n1⟩ := s1
    obtain ⟨c2, ⟨⟩, x2, i2, n2⟩ := s2
    simp_all [eraseOutputs, BusState.eraseOutputs]
  · rintro ⟨out, tr, n, rfl⟩
    rfl

theorem eraseOutputs_flatSelect (c : Cfg) (d : Sel) (st : BusState) :
    (flatSelect c d st).eraseOutputs = (flatSelect c d st.eraseOutputs).eraseOutputs := by
  by_cases h : d = st.selectedDevice
  · simp [flatSelect, BusState.eraseOutputs, h]
  · simp [flatSelect, BusState.eraseOutputs, h]

theorem eraseOutputs_flatHandshake (c : Cfg) (st : BusState) :
    (flatHandshake c st).eraseOutputs = (flatHandshake c st.eraseOutputs).eraseOutputs := by
  by_cases h : st.handshakeEdgeCount + 1 = c.handshakeThreshold
  · simp [flatHandshake, BusState.eraseOutputs, h]
  · simp [flatHandshake, BusState.eraseOutputs, h]

/-- The slot after an answer does not depend on the answer. -/
theorem flatAnswer_slot (c : Cfg) (d : Device) (b : Byte) (st : BusState) (n : Nat) :
    (flatAnswer c d b st n).2.1 = if d = .keyboard then none else st.kbdSlot := by
  cases d with
  | sdCard | rtc => rfl
  | keyboard =>
    cases hslot : st.kbdSlot with
    | none => simp [flatAnswer, hslot]
    | some key =>
      simp only [flatAnswer, hslot]
      split_ifs <;> rfl

theorem eraseOutputs_flatFrame (c : Cfg) (m : Bool) (st : BusState) (n n' : Nat) :
    (flatFrame c m st n).1.eraseOutputs = (flatFrame c m st.eraseOutputs n').1.eraseOutputs := by
  cases hd : st.selectedDevice with
  | none => simp [flatFrame, BusState.eraseOutputs, hd]
  | some d =>
    by_cases hbit : st.bitCount.val < 7
    · simp [flatFrame, BusState.eraseOutputs, hd, hbit]
    · simp [flatFrame, BusState.eraseOutputs, hd, hbit, flatAnswer_slot]

/-- Ticks from Bus States that agree but for the outputs end in Bus States that do: part by part, each part commutes
with erasing the outputs, and no test of R90 reads them. -/
theorem flatTick_alike (c : Cfg) (k m : Bool) (d : Sel) {st st' : BusState} (n n' : Nat)
    (h : st.eraseOutputs = st'.eraseOutputs) :
    (flatTick c k m d st n).1.eraseOutputs = (flatTick c k m d st' n').1.eraseOutputs := by
  have hclock : st.prevClock = st'.prevClock := by simpa using congrArg BusState.prevClock h
  have hedged : BusState.eraseOutputs { st with prevClock := k } = BusState.eraseOutputs { st' with prevClock := k } :=
    congrArg (fun b : BusState => { b with prevClock := k }) h
  have hselected : (flatSelect c d { st with prevClock := k }).eraseOutputs =
      (flatSelect c d { st' with prevClock := k }).eraseOutputs := by
    rw [eraseOutputs_flatSelect, hedged, ← eraseOutputs_flatSelect]
  have hinit : (flatSelect c d { st with prevClock := k }).initialized =
      (flatSelect c d { st' with prevClock := k }).initialized := by simpa using congrArg BusState.initialized hselected
  simp only [flatTick, hclock, hinit]
  split_ifs
  · rw [eraseOutputs_flatHandshake, hselected, ← eraseOutputs_flatHandshake]
  · rw [eraseOutputs_flatFrame c m _ n 0, hselected, ← eraseOutputs_flatFrame c m _ n' 0]
  · exact hselected

/-- One step from states that agree but for the outputs. -/
theorem exec_step_alike {w : Byte} {s1 s2 t1 t2 : State} (h : eraseOutputs s1 = eraseOutputs s2)
    (h1 : exec (.step w) s1 = .next t1) (h2 : exec (.step w) s2 = .next t2) : eraseOutputs t1 = eraseOutputs t2 := by
  rw [exec_step_eq_flatStep] at h1 h2
  cases h1
  cases h2
  have hcfg : s1.cfg = s2.cfg := by simpa using congrArg State.cfg h
  have hinbox : s1.inbox = s2.inbox := by simpa using congrArg State.inbox h
  have hbus : s1.bus.eraseOutputs = s2.bus.eraseOutputs := by simpa using congrArg State.bus h
  simp only [flatStep, eraseOutputs, hcfg, hinbox, flatTick_alike _ _ _ _ s1.draws s2.draws hbus]

/-- Any run of samples from states that agree but for the outputs. -/
theorem stepSamples_alike {ws : List Byte} {s1 s2 t1 t2 : State} (h : eraseOutputs s1 = eraseOutputs s2)
    (h1 : stepSamples ws s1 = .next t1) (h2 : stepSamples ws s2 = .next t2) : eraseOutputs t1 = eraseOutputs t2 := by
  induction ws generalizing s1 s2 with
  | nil =>
    cases h1
    cases h2
    exact h
  | cons w ws ih =>
    obtain ⟨u1, hu1, -⟩ := exec_step_stepTo w s1
    obtain ⟨u2, hu2, -⟩ := exec_step_stepTo w s2
    rw [stepSamples_cons_of_next hu1] at h1
    rw [stepSamples_cons_of_next hu2] at h2
    exact ih (exec_step_alike h hu1 hu2) h1 h2

end Sys2Proof.Machine

namespace Sys2Proof.Proofs

open Sys2Proof Sys2Proof.Machine

/-- Settles O41: erasing the outputs makes the two runs one. -/
theorem answersReachOnlyTheOutputs : Obligations.AnswersReachOnlyTheOutputs := by
  unfold Obligations.AnswersReachOnlyTheOutputs
  intro ws s1 s2 t1 t2 halike h1 h2
  rw [← eraseOutputs_eq_iff] at halike ⊢
  exact stepSamples_alike halike h1 h2

end Sys2Proof.Proofs
end

section
/-! SUPPORT. What no instruction changes (the configuration, the calls to come, the events so far), who writes the key
slot, and the obligations about them (R20, R21, R26). -/

namespace Sys2Proof.Machine

/-- From `s` to `t` the configuration and the calls to come stay, and events are only appended. -/
structure Appends (s t : State) : Prop where
  cfg : t.cfg = s.cfg
  inbox : t.inbox = s.inbox
  trace : s.bus.trace <+: t.bus.trace

/-- A result that keeps the trace, too. -/
theorem Appends.of_same {s t : State} (hcfg : t.cfg = s.cfg) (hinbox : t.inbox = s.inbox)
    (htrace : t.bus.trace = s.bus.trace) : Appends s t :=
  ⟨hcfg, hinbox, htrace ▸ List.prefix_rfl⟩

theorem Appends.trans {s u t : State} (hu : Appends s u) (ht : Appends u t) : Appends s t :=
  ⟨ht.cfg.trans hu.cfg, ht.inbox.trans hu.inbox, hu.trace.trans ht.trace⟩

/-- From `s` to `t` events are only appended, and the key slot stays, too. -/
structure Notifies (s t : State) : Prop extends Appends s t where
  kbdSlot : t.bus.kbdSlot = s.bus.kbdSlot

theorem Notifies.trans {s u t : State} (hu : Notifies s u) (ht : Notifies u t) : Notifies s t :=
  ⟨hu.toAppends.trans ht.toAppends, ht.kbdSlot.trans hu.kbdSlot⟩

theorem transition_notifies (s : State) : Notifies s (transition s) := by
  by_cases h : s.wires.dev = s.bus.selectedDevice
  · rw [transition_of_same h]
    exact ⟨.of_same rfl rfl rfl, rfl⟩
  · rw [transition_of_change h]
    exact ⟨⟨rfl, rfl, List.prefix_append ..⟩, rfl⟩

/-- The completion's writes (R69). -/
theorem completeHandshake_eq (s : State) :
    completeHandshake s =
      { s with bus :=
          { s.bus with
            initialized := true
            selectedDevice := if s.cfg.handshakeSetsSelection then some .sdCard else s.bus.selectedDevice
            bitCount := 0
            inByteAccumulator := 0x00#8
            trace := s.bus.trace ++ [.select .sdCard] } } := by
  unfold completeHandshake
  split_ifs <;> rfl

theorem completeHandshake_notifies (s : State) : Notifies s (completeHandshake s) := by
  rw [completeHandshake_eq]
  exact ⟨⟨rfl, rfl, List.prefix_append ..⟩, rfl⟩

theorem countHandshake_notifies (s : State) : Notifies s (countHandshake s) := by
  by_cases hedge : s.wires.rising = true ∧ s.bus.initialized = false
  · by_cases hn : s.bus.handshakeEdgeCount + 1 = s.cfg.handshakeThreshold
    · rw [countHandshake_of_threshold hedge hn]
      exact ⟨⟨rfl, rfl, List.prefix_append ..⟩, rfl⟩
    · rw [countHandshake_of_count hedge hn]
      exact ⟨.of_same rfl rfl rfl, rfl⟩
  · rw [countHandshake_of_inert hedge]
    exact ⟨.of_same rfl rfl rfl, rfl⟩

/-- A completed byte went to the selected device: what the completion did to the Bus State. -/
theorem completeByte_eq_next {s t : State} (h : completeByte s = .next t) : ∃ (d : Device) (bOut : Byte),
    t.cfg = s.cfg ∧ t.inbox = s.inbox ∧
      t.bus.kbdSlot = (if d = .keyboard then none else s.bus.kbdSlot) ∧
      t.bus.trace = s.bus.trace ++ [.exchange d s.bus.inByteAccumulator bOut, .setOutByte bOut] := by
  cases hdev : s.bus.selectedDevice with
  | none => simp [completeByte_of_no_device hdev] at h
  | some d =>
    rw [completeByte_of_device hdev] at h
    cases h
    exact ⟨d, _, rfl, rfl, by simp, rfl⟩

theorem completeByte_appends {s t : State} (h : completeByte s = .next t) : Appends s t := by
  obtain ⟨d, bOut, hcfg, hinbox, -, htrace⟩ := completeByte_eq_next h
  exact ⟨hcfg, hinbox, htrace ▸ List.prefix_append ..⟩

/-- The framer shifts a bit in, or completes a byte after it has; the shift keeps all but the framing. -/
theorem frame_eq_next {m : Bool} {s t : State} (h : frame m s = .next t) :
    ∃ u, (t = u ∨ completeByte u = .next t) ∧
      u.cfg = s.cfg ∧ u.inbox = s.inbox ∧ u.bus.kbdSlot = s.bus.kbdSlot ∧ u.bus.trace = s.bus.trace := by
  cases hgate : framerGate s with
  | false =>
    rw [frame_of_closed hgate] at h
    cases h
    exact ⟨_, .inl rfl, rfl, rfl, rfl, rfl⟩
  | true =>
    by_cases hbit : s.bus.bitCount.val + 1 < 8
    · rw [frame_of_bit hgate hbit] at h
      cases h
      exact ⟨_, .inl rfl, rfl, rfl, rfl, rfl⟩
    · rw [frame_of_eighth hgate hbit] at h
      exact ⟨_, .inr h, rfl, rfl, rfl, rfl⟩

theorem frame_appends {m : Bool} {s t : State} (h : frame m s = .next t) : Appends s t := by
  obtain ⟨u, rfl | hbyte, hcfg, hinbox, -, htrace⟩ := frame_eq_next h
  · exact .of_same hcfg hinbox htrace
  · exact Appends.trans (.of_same hcfg hinbox htrace) (completeByte_appends hbyte)

/-- A bus tick appends nothing but notifications up to the framer, whose answer it keeps. -/
theorem busTick_eq_next {k m : Bool} {d : Sel} {s t : State} (h : busTick k m d s = .next t) :
    ∃ u v, Notifies s u ∧ frame m u = .next v ∧ t = clearStepValues v := by
  obtain ⟨v, hframe, rfl⟩ := andThen_eq_next h
  have hdecoded : Notifies s (setDecoded d (detectEdge k (clearStepValues s))) := ⟨.of_same rfl rfl rfl, rfl⟩
  exact ⟨_, v, (hdecoded.trans (transition_notifies _)).trans (countHandshake_notifies _), hframe, rfl⟩

theorem busTick_appends {k m : Bool} {d : Sel} {s t : State} (h : busTick k m d s = .next t) : Appends s t := by
  obtain ⟨u, v, hu, hframe, rfl⟩ := busTick_eq_next h
  exact (hu.toAppends.trans (frame_appends hframe)).trans (.of_same rfl rfl rfl)

/-- Every instruction but RESET only appends. -/
theorem exec_appends {i : Instr} {s t : State} (h : exec i s = .next t) (hi : i ≠ .reset) : Appends s t := by
  cases i with
  | reset => exact absurd rfl hi
  | step _ | sampleSelSd _ | sampleSelKbd _ | sampleSelRtc _ | sampleSelNone _ | sampleSelMulti12 _
  | sampleSelMulti13 _ | sampleSelMulti23 _ | sampleSelMulti123 _ => exact busTick_appends h
  | selectTransition =>
    cases h
    exact (transition_notifies s).toAppends
  | handshakeCount =>
    cases h
    exact (countHandshake_notifies s).toAppends
  | handshakeComplete =>
    cases h
    exact (completeHandshake_notifies s).toAppends
  | frameBit _ => exact frame_appends h
  | byteComplete => exact completeByte_appends h
  | outLatch _ =>
    cases h
    exact ⟨rfl, rfl, List.prefix_append ..⟩
  | kbdPush _ | edgeDetect _ | selectDecode _ | exchangeSd _ | exchangeKbd _ | exchangeRtc _ =>
    cases h
    exact .of_same rfl rfl rfl

/-- No instruction changes the configuration or the calls to come; RESET writes the Bus State and the per-step
values. -/
theorem exec_cfg_inbox {i : Instr} {s t : State} (h : exec i s = .next t) : t.cfg = s.cfg ∧ t.inbox = s.inbox := by
  by_cases hi : i = .reset
  · subst hi
    cases h
    exact ⟨rfl, rfl⟩
  · exact ⟨(exec_appends h hi).cfg, (exec_appends h hi).inbox⟩

/-- The key slot stays, or a keyboard exchange at the trace's end emptied it. -/
def SlotKeptOrPopped (s t : State) : Prop :=
  t.bus.kbdSlot = s.bus.kbdSlot ∨
    (t.bus.kbdSlot = none ∧ ∃ (l : List Event) (bIn bOut : Byte),
      t.bus.trace = s.bus.trace ++ l ++ [.exchange .keyboard bIn bOut, .setOutByte bOut])

theorem completeByte_slot {s t : State} (h : completeByte s = .next t) : SlotKeptOrPopped s t := by
  obtain ⟨d, bOut, -, -, hslot, htrace⟩ := completeByte_eq_next h
  by_cases hd : d = .keyboard
  · subst hd
    exact .inr ⟨hslot, [], _, bOut, by rw [htrace, List.append_nil]⟩
  · exact .inl (by rw [hslot, if_neg hd])

theorem frame_slot {m : Bool} {s t : State} (h : frame m s = .next t) : SlotKeptOrPopped s t := by
  obtain ⟨u, rfl | hbyte, -, -, hslot, htrace⟩ := frame_eq_next h
  · exact .inl hslot
  · have hu := completeByte_slot hbyte
    rwa [SlotKeptOrPopped, hslot, htrace] at hu

/-- In a tick only the framer's exchange can touch the slot. -/
theorem busTick_slot {k m : Bool} {d : Sel} {s t : State} (h : busTick k m d s = .next t) : SlotKeptOrPopped s t := by
  obtain ⟨u, v, hu, hframe, rfl⟩ := busTick_eq_next h
  obtain ⟨l, hl⟩ := hu.trace
  rcases frame_slot hframe with hkept | ⟨hpopped, l', bIn, bOut, htrace⟩
  · exact .inl (hkept.trans hu.kbdSlot)
  · refine .inr ⟨hpopped, l ++ l', bIn, bOut, ?_⟩
    rw [clearStepValues_bus, htrace, ← hl, List.append_assoc s.bus.trace]

/-- Every instruction but RESET, KBD_PUSH and EXCHANGE_KBD. -/
theorem exec_slot {i : Instr} {s t : State} (h : exec i s = .next t) (hreset : i ≠ .reset)
    (hpush : ∀ b, i ≠ .kbdPush b) (hexchange : ∀ b, i ≠ .exchangeKbd b) : SlotKeptOrPopped s t := by
  cases i with
  | reset => exact absurd rfl hreset
  | kbdPush b => exact absurd rfl (hpush b)
  | exchangeKbd b => exact absurd rfl (hexchange b)
  | step _ | sampleSelSd _ | sampleSelKbd _ | sampleSelRtc _ | sampleSelNone _ | sampleSelMulti12 _
  | sampleSelMulti13 _ | sampleSelMulti23 _ | sampleSelMulti123 _ => exact busTick_slot h
  | selectTransition =>
    cases h
    exact .inl (transition_notifies s).kbdSlot
  | handshakeCount =>
    cases h
    exact .inl (countHandshake_notifies s).kbdSlot
  | handshakeComplete =>
    cases h
    exact .inl (completeHandshake_notifies s).kbdSlot
  | frameBit _ => exact frame_slot h
  | byteComplete => exact completeByte_slot h
  | edgeDetect _ | selectDecode _ | exchangeSd _ | exchangeRtc _ | outLatch _ =>
    cases h
    exact .inl rfl

/-! ### The machine's step -/

theorem step_of_empty {s : State} (h : s.inbox = []) : step s = .next s := by
  rw [step, fetch_of_empty h]

theorem step_of_call {s : State} {call : HostCall} {rest : List HostCall} (h : s.inbox = call :: rest) :
    step s = exec (decodeCall s.cfg call) { s with inbox := rest } := by
  rw [step, fetch_of_call h]

/-- Every host call is answered by a next state. -/
theorem exec_decodeCall_total (call : HostCall) (s : State) : ∃ t, exec (decodeCall s.cfg call) s = .next t := by
  cases call with
  | reset | kbdPush _ => exact ⟨_, rfl⟩
  | step w =>
    obtain ⟨t, ht, -⟩ := exec_step_stepTo w s
    exact ⟨t, (exec_decodeSample_eq_exec_step w s).trans ht⟩

end Sys2Proof.Machine

namespace Sys2Proof.Proofs

open Sys2Proof Sys2Proof.Machine

/-- Settles O37: every call has its next state, and STEP's events are appended. -/
theorem machineNeverStops : Obligations.MachineNeverStops := by
  unfold Obligations.MachineNeverStops
  refine ⟨fun s => ?_, fun w s => ?_⟩
  · cases hinbox : s.inbox with
    | nil => exact ⟨s, step_of_empty hinbox⟩
    | cons call rest =>
      rw [step_of_call hinbox]
      exact exec_decodeCall_total call { s with inbox := rest }
  · obtain ⟨t, ht, -⟩ := exec_step_stepTo w s
    obtain ⟨l, hl⟩ := (exec_appends ht (nomatch ·)).trace
    exact ⟨t, l, ht, hl.symm⟩

/-- Settles O48: no instruction writes the configuration or the inbox, and a step is a wait or an instruction. -/
theorem cfgIsFixedForASession : Obligations.CfgIsFixedForASession := by
  unfold Obligations.CfgIsFixedForASession
  refine ⟨fun i s t => exec_cfg_inbox, fun s t h => ?_⟩
  cases hinbox : s.inbox with
  | nil =>
    rw [step_of_empty hinbox] at h
    cases h
    rfl
  | cons call rest =>
    rw [step_of_call hinbox] at h
    exact (exec_cfg_inbox h).1

/-- Settles O49: but for the three instructions, only the framer's exchange touches the slot. -/
theorem whoWritesTheKeySlot : Obligations.WhoWritesTheKeySlot := by
  unfold Obligations.WhoWritesTheKeySlot
  intro i s t h
  by_cases hreset : i = .reset
  · exact .inl hreset
  by_cases hpush : ∃ b, i = .kbdPush b
  · exact .inr (.inl hpush)
  by_cases hexchange : ∃ b, i = .exchangeKbd b
  · exact .inr (.inr (.inl hexchange))
  · exact .inr (.inr (.inr (exec_slot h hreset (not_exists.mp hpush) (not_exists.mp hexchange))))

/-- Settles O50: every instruction but RESET only appends. -/
theorem traceOnlyGrows : Obligations.TraceOnlyGrows := by
  unfold Obligations.TraceOnlyGrows
  intro i s t h hi
  obtain ⟨l, hl⟩ := (exec_appends h hi).trace
  exact ⟨l, hl.symm⟩

end Sys2Proof.Proofs
end

section
/-! SUPPORT. The invariant at a session start and over every host call, and the obligations about it (R19, R21, R22,
R25, R89). -/

namespace Sys2Proof.Machine

/-! ### Traces grown at the end -/

theorem lastOut_append (v : Option Byte) (l l' : List Event) : lastOut v (l ++ l') = lastOut (lastOut v l) l' := by
  induction l generalizing v with
  | nil => rfl
  | cons e l ih => cases e <;> exact ih _

/-- Events that move no byte push none. -/
theorem lastOut_of_quiet (v : Option Byte) {l : List Event} (h : ∀ e ∈ l, isTransfer e = false) : lastOut v l = v := by
  induction l with
  | nil => rfl
  | cons e l ih =>
    obtain ⟨he, hl⟩ := List.forall_mem_cons.mp h
    cases e with
    | select _ | deselect _ | kbdCursorReset => exact ih hl
    | exchange _ _ _ | setOutByte _ => cases he

theorem isPaired_of_quiet {l : List Event} (h : ∀ e ∈ l, isTransfer e = false) : isPaired l = true := by
  induction l with
  | nil => rfl
  | cons e l ih =>
    obtain ⟨he, hl⟩ := List.forall_mem_cons.mp h
    cases e with
    | select _ | deselect _ | kbdCursorReset => exact ih hl
    | exchange _ _ _ | setOutByte _ => cases he

/-- Two traces in pairs, one after the other, are in pairs. -/
theorem isPaired_append {l l' : List Event} (h : isPaired l = true) (h' : isPaired l' = true) :
    isPaired (l ++ l') = true := by
  induction l using isPaired.induct with
  | case1 => exact h'
  | case2 d b r v rest ih =>
    simp only [isPaired, Bool.and_eq_true] at h
    simp only [List.cons_append, isPaired, Bool.and_eq_true]
    exact ⟨h.1, ih h.2⟩
  | case3 d b r rest hnext => simp [isPaired] at h
  | case4 v rest => simp [isPaired] at h
  | case5 d rest ih | case6 d rest ih | case7 rest ih => exact ih h

/-! ### The clauses about the trace -/

/-- What the invariant says of the outgoing register and the trace. -/
structure TraceOk (st : BusState) : Prop where
  outIsLastPushed : st.outByteRegister = lastOut none st.trace
  paired : isPaired st.trace = true
  listed : ∀ e ∈ st.trace, isListedEvent e = true

/-- Events that are listed and move no byte, with the register kept. -/
theorem TraceOk.of_quiet {st st' : BusState} {l : List Event} (h : TraceOk st) (htrace : st'.trace = st.trace ++ l)
    (hout : st'.outByteRegister = st.outByteRegister) (hquiet : ∀ e ∈ l, isTransfer e = false)
    (hlisted : ∀ e ∈ l, isListedEvent e = true) : TraceOk st' where
  outIsLastPushed := by rw [hout, htrace, lastOut_append, lastOut_of_quiet _ hquiet, h.outIsLastPushed]
  paired := htrace ▸ isPaired_append h.paired (isPaired_of_quiet hquiet)
  listed := htrace ▸ List.forall_mem_append.mpr ⟨h.listed, hlisted⟩

/-- An `Exchange` with its `SetOutByte`, and the answer latched. -/
theorem TraceOk.of_delivery {st st' : BusState} {d : Device} {b r : Byte} (h : TraceOk st)
    (htrace : st'.trace = st.trace ++ [.exchange d b r, .setOutByte r]) (hout : st'.outByteRegister = some r) :
    TraceOk st' where
  outIsLastPushed := by rw [hout, htrace, lastOut_append]; rfl
  paired := htrace ▸ isPaired_append h.paired (by simp [isPaired])
  listed := htrace ▸ List.forall_mem_append.mpr ⟨h.listed, by simp [isListedEvent]⟩

/-- The events of a quiet step, all of R21's list. -/
theorem Quiet.appends_listed {w : Byte} {s t : State} (h : Quiet w s t) :
    ∃ l : List Event, t.bus.trace = s.bus.trace ++ l ∧ (∀ e ∈ l, isTransfer e = false) ∧
      ∀ e ∈ l, isListedEvent e = true := by
  obtain ⟨l, hl, hquiet⟩ := h.appends
  have hevents : l = tableEvents s.cfg.rtcDeselectNotify s.bus.selectedDevice (decodeDevice s.cfg w) ++
      completionEvents s t := by
    have htrace := h.trace
    rw [hl, List.append_assoc] at htrace
    exact List.append_cancel_left htrace
  refine ⟨l, hl, hquiet, hevents ▸ List.forall_mem_append.mpr ⟨fun _ => tableEvents_listed, fun e he => ?_⟩⟩
  rw [eq_select_of_mem_completionEvents he]
  rfl

theorem StepTo.traceOk {w : Byte} {s t : State} (h : StepTo w s t) (hs : TraceOk s.bus) : TraceOk t.bus := by
  by_cases hbyte : sampleCompletesByte s w
  · obtain ⟨d, bOut, -, hbus⟩ := h.delivers hbyte
    rw [hbus]
    exact hs.of_delivery rfl rfl
  · have hquiet := h.quiet hbyte
    obtain ⟨l, hl, hmove, hlisted⟩ := hquiet.appends_listed
    exact hs.of_quiet hl hquiet.outByteRegister hmove hlisted

/-! ### The clauses about the handshake and the framing -/

/-- With no device selected after a step, no bit is framed. -/
theorem StepTo.noneFramesNothing {w : Byte} {s t : State} (h : StepTo w s t)
    (hs : s.bus.selectedDevice = none → s.bus.bitCount = 0) (hnone : t.bus.selectedDevice = none) :
    t.bus.bitCount = 0 := by
  cases h.effect with
  | noEdge _ _ hbus | counted _ _ _ _ hbus | unaddressed _ _ _ _ hbus =>
    simp only [hbus, busAfterSelection_selectedDevice] at hnone
    simp only [hbus, busAfterSelection_bitCount]
    split_ifs with hsame
    · exact hs (hsame.symm.trans hnone)
    · rfl
  | threshold _ _ _ _ hbus | completed _ _ _ _ _ _ _ hbus => rw [hbus]
  | framed _ _ haddr _ _ hbus =>
    simp only [hbus, busAfterSelection_selectedDevice] at hnone
    exact absurd hnone haddr

/-- STEP of any sample keeps the invariant. -/
theorem StepTo.inv {w : Byte} {s t : State} (h : StepTo w s t) (hs : Inv s) : Inv t := by
  obtain ⟨hquiet, hafter, hbefore, hnone, hout, hpaired, hlisted, -⟩ := hs
  obtain ⟨hout', hpaired', hlisted'⟩ := h.traceOk ⟨hout, hpaired, hlisted⟩
  have hstayed (hclosed : t.bus.initialized = false) : s.bus.initialized = false := by
    by_contra hopened
    simp [(h.gate_of_opened (by simpa using hopened)).2] at hclosed
  refine ⟨fun hclosed => ?_, fun hopened => ?_, fun hclosed => ?_, h.noneFramesNothing hnone, hout', hpaired', hlisted',
    h.wires⟩
  · obtain ⟨hcount, hacc, hmove⟩ := hquiet (hstayed hclosed)
    obtain ⟨l, hl, hmove'⟩ := (h.quiet (not_completesByte_of_closed (hstayed hclosed))).appends
    have hframing := h.framing_of_closed (hstayed hclosed)
    rw [hcount, hacc, or_self] at hframing
    exact ⟨hframing.1, hframing.2, hl ▸ List.forall_mem_append.mpr ⟨hmove, hmove'⟩⟩
  · rw [h.cfg]
    cases hinit : s.bus.initialized with
    | true => rw [(h.gate_of_opened hinit).1, hafter hinit]
    | false =>
      by_cases hrises : sampleRises s w
      · obtain ⟨hcount, hdone⟩ := h.gate_of_edge hinit hrises
        rw [hcount, hdone.mp hopened]
      · simp [(h.gate_of_still hrises).2, hinit] at hopened
  · have hbelow := hbefore (hstayed hclosed)
    rw [h.cfg]
    by_cases hrises : sampleRises s w
    · obtain ⟨hcount, hdone⟩ := h.gate_of_edge (hstayed hclosed) hrises
      have hshort := mt hdone.mpr (by simp [hclosed])
      omega
    · rwa [(h.gate_of_still hrises).1]

/-! ### The machine -/

/-- A session start frames and counts nothing, and has an empty trace; the threshold is at least 1. -/
theorem inv_start (c : Cfg) (calls : List HostCall) (n : Nat) : Inv (State.start c calls n) where
  quietBeforeInit _ := ⟨rfl, rfl, nofun⟩
  countAfterInit h := nomatch h
  countBeforeInit _ := c.threshold_pos
  noneFramesNothing _ := rfl
  outIsLastPushed := rfl
  paired := rfl
  listed := nofun
  wiresIdle := rfl

/-- The invariant does not speak of the calls to come. -/
theorem Inv.with_inbox {s : State} (h : Inv s) (calls : List HostCall) : Inv { s with inbox := calls } :=
  ⟨h.quietBeforeInit, h.countAfterInit, h.countBeforeInit, h.noneFramesNothing, h.outIsLastPushed, h.paired, h.listed,
    h.wiresIdle⟩

/-- Nor of the key slot. -/
theorem Inv.with_kbdSlot {s : State} (h : Inv s) (key : Option Byte) :
    Inv { s with bus := { s.bus with kbdSlot := key } } :=
  ⟨h.quietBeforeInit, h.countAfterInit, h.countBeforeInit, h.noneFramesNothing, h.outIsLastPushed, h.paired, h.listed,
    h.wiresIdle⟩

/-- Every host call keeps the invariant. -/
theorem exec_decodeCall_inv {call : HostCall} {s t : State} (hs : Inv s)
    (h : exec (decodeCall s.cfg call) s = .next t) : Inv t := by
  cases call with
  | reset =>
    cases h
    exact inv_start s.cfg s.inbox s.draws
  | kbdPush b =>
    cases h
    exact hs.with_kbdSlot (some b)
  | step w => exact (stepTo_of_exec ((exec_decodeSample_eq_exec_step w s).symm.trans h)).inv hs

end Sys2Proof.Machine

namespace Sys2Proof.Proofs

open Sys2Proof Sys2Proof.Machine

/-- Settles O35: `State.reset` is a session start. -/
theorem sessionStartMeetsInvariant : Obligations.SessionStartMeetsInvariant := by
  unfold Obligations.SessionStartMeetsInvariant
  exact ⟨inv_start, inv_start _ _ _⟩

/-- Settles O36: a step waits, or makes the next host call, which keeps the invariant. -/
theorem everyStepKeepsInvariant : Obligations.EveryStepKeepsInvariant := by
  unfold Obligations.EveryStepKeepsInvariant
  intro s t hs h
  cases hinbox : s.inbox with
  | nil =>
    rw [step_of_empty hinbox] at h
    cases h
    exact hs
  | cons call rest =>
    rw [step_of_call hinbox] at h
    exact exec_decodeCall_inv (hs.with_inbox rest) h

end Sys2Proof.Proofs
end

section
/-! SUPPORT. Clock pulses one after another shift their bits in, most significant first, and the eighth delivers the
byte; and the obligation about `BYTE d, v` (R31, R51, R77). -/

namespace Sys2Proof.Machine

theorem execAll_cons_of_next {i : Instr} {s t : State} (h : exec i s = .next t) (rest : List Instr) :
    execAll (i :: rest) s = execAll rest t := by
  simp only [execAll, h]

/-- After initialization device `d` is selected, with `n` bits framed in the accumulator `acc`. -/
structure Framing (d : Device) (n : Nat) (acc : Byte) (s : State) : Prop where
  initialized : s.bus.initialized = true
  selectedDevice : s.bus.selectedDevice = some d
  bitCount : s.bus.bitCount.val = n
  inByteAccumulator : s.bus.inByteAccumulator = acc

/-- The instructions of one pulse after another, a bit each (R51). -/
def pulses (c : Cfg) (d : Device) (bits : List Bool) : List Instr :=
  (bits.flatMap (bitCalls c (some d))).map (decodeCall c)

theorem pulses_cons (c : Cfg) (d : Device) (b : Bool) (bits : List Bool) :
    pulses c d (b :: bits) = decodeCall c (.step (smp c (some d) b false)) ::
      decodeCall c (.step (smp c (some d) b true)) :: pulses c d bits := rfl

/-- The bits of a byte, most significant first. -/
def bitsMsbFirst (v : Byte) : List Bool :=
  [v.getLsbD 7, v.getLsbD 6, v.getLsbD 5, v.getLsbD 4, v.getLsbD 3, v.getLsbD 2, v.getLsbD 1, v.getLsbD 0]

/-- `BYTE d, v` is the pulses of v's bits, most significant first. -/
theorem byteCalls_eq_pulses (c : Cfg) (d : Device) (v : Byte) :
    (byteCalls c (some d) v).map (decodeCall c) = pulses c d (bitsMsbFirst v) := rfl

/-- Eight bits shifted in, most significant first, are the byte, whatever the accumulator held (R77). -/
theorem foldl_shiftIn_bits (acc v : Byte) : (bitsMsbFirst v).foldl shiftIn acc = v := by
  refine BitVec.eq_of_getLsbD_eq fun j hj => ?_
  simp only [bitsMsbFirst, List.foldl_cons, List.foldl_nil]
  interval_cases j <;> simp [getLsbD_shiftIn, -BitVec.getLsbD_eq_getElem]

/-- The state after a pulse's low sample: the selection, with the clock low. -/
def lowered (d : Device) (s : State) : State :=
  { s with bus := busAfterSelection false (some d) s, wires := StepValues.idle }

theorem exec_low_sample (d : Device) (b : Bool) (s : State) :
    exec (decodeCall s.cfg (.step (smp s.cfg (some d) b false))) s = .next (lowered d s) := by
  have hstill : ¬ sampleRises s (smp s.cfg (some d) b false) := fun hrises => by
    cases hrises.2.symm.trans (getLsbD_clkBit_smp ..)
  rw [decodeCall, exec_decodeSample_eq_exec_step, exec_step_of_not_rises hstill, getLsbD_clkBit_smp, decodeDevice_smp,
    lowered]

/-- With `d` already selected, the low sample only stores the clock level. -/
theorem Framing.lowered_bus {d : Device} {n : Nat} {acc : Byte} {s : State} (h : Framing d n acc s) :
    (lowered d s).bus = { s.bus with prevClock := false } :=
  busAfterSelection_same h.selectedDevice.symm

theorem Framing.lowered {d : Device} {n : Nat} {acc : Byte} {s : State} (h : Framing d n acc s) :
    Framing d n acc (lowered d s) := by
  obtain ⟨hinit, hsel, hcount, hacc⟩ := h
  constructor <;> rw [Framing.lowered_bus ⟨hinit, hsel, hcount, hacc⟩] <;> assumption

/-- An edge for the selected device, not the eighth: its bit is framed, and no event occurs. -/
theorem StepTo.framing_of_edge {w : Byte} {d : Device} {n : Nat} {acc : Byte} {s t : State} (h : StepTo w s t)
    (hs : Framing d n acc s) (hrises : sampleRises s w) (haddr : decodeDevice s.cfg w = some d) (hn : n < 7) :
    Framing d (n + 1) (shiftIn acc (w.getLsbD s.cfg.mosiBit)) t ∧ t.bus.trace = s.bus.trace := by
  obtain ⟨hinit, hsel, hcount, hacc⟩ := hs
  cases h.effect with
  | framed _ _ _ _ _ hbus =>
    exact ⟨⟨by simp [hbus, hinit], by simp [hbus, haddr], by simp [hbus, haddr, hsel, hcount],
      by simp [hbus, haddr, hsel, hacc]⟩, by simp [hbus, haddr, hsel]⟩
  | noEdge hstill => exact absurd hrises hstill
  | threshold _ hclosed | counted _ hclosed => simp [hclosed] at hinit
  | unaddressed _ _ hnobody => simp [haddr] at hnobody
  | completed _ _ _ _ _ _ hseven =>
    simp [hseven] at hcount
    omega

/-- What `BYTE` leaves: the byte `v` delivered to `d`, its answer latched, and the frame empty. -/
structure Delivered (d : Device) (v : Byte) (before : List Event) (t : State) : Prop where
  events : ∃ bOut, t.bus.trace = before ++ [.exchange d v bOut, .setOutByte bOut] ∧ t.bus.outByteRegister = some bOut
  bitCount : t.bus.bitCount = 0
  inByteAccumulator : t.bus.inByteAccumulator = v
  selectedDevice : t.bus.selectedDevice = some d
  prevClock : t.bus.prevClock = true

/-- The eighth edge for the selected device. -/
theorem StepTo.delivered_of_edge {w : Byte} {d : Device} {acc : Byte} {s t : State} (h : StepTo w s t)
    (hs : Framing d 7 acc s) (hrises : sampleRises s w) (haddr : decodeDevice s.cfg w = some d) :
    Delivered d (shiftIn acc (w.getLsbD s.cfg.mosiBit)) s.bus.trace t := by
  obtain ⟨hinit, hsel, hcount, hacc⟩ := hs
  have hbyte : sampleCompletesByte s w := ⟨hrises, hinit, haddr.trans hsel.symm, by simp [hsel], Fin.ext hcount⟩
  obtain ⟨e, bOut, he, hbus⟩ := h.delivers hbyte
  cases hsel.symm.trans he
  rw [hacc] at hbus
  constructor
  case events => exact ⟨bOut, by rw [hbus], by rw [hbus]⟩
  case selectedDevice => rw [hbus, hsel]
  all_goals rw [hbus]

/-- A pulse's high sample from a low clock is STEP of a rising sample for `d` with MOSI `b`. -/
theorem exec_high_sample {d : Device} {s : State} (b : Bool) (hlow : s.bus.prevClock = false) :
    ∃ t, exec (decodeCall s.cfg (.step (smp s.cfg (some d) b true))) s = .next t ∧
      StepTo (smp s.cfg (some d) b true) s t ∧ sampleRises s (smp s.cfg (some d) b true) := by
  obtain ⟨t, ht, hstep⟩ := exec_step_stepTo (smp s.cfg (some d) b true) s
  exact ⟨t, (exec_decodeSample_eq_exec_step _ s).trans ht, hstep, hlow, getLsbD_clkBit_smp ..⟩

/-- One pulse short of the eighth: its bit is framed, and no event occurs. -/
theorem execAll_pulse {d : Device} {n : Nat} {acc : Byte} {s : State} (h : Framing d n acc s) (hn : n < 7) (b : Bool)
    (bits : List Bool) :
    ∃ t, execAll (pulses s.cfg d (b :: bits)) s = execAll (pulses t.cfg d bits) t ∧
      Framing d (n + 1) (shiftIn acc b) t ∧ t.bus.trace = s.bus.trace := by
  obtain ⟨t, ht, hstep, hrises⟩ := exec_high_sample (d := d) (s := lowered d s) b (by rw [h.lowered_bus])
  obtain ⟨hframing, htrace⟩ := hstep.framing_of_edge h.lowered hrises (decodeDevice_smp ..) hn
  rw [getLsbD_mosiBit_smp] at hframing
  rw [h.lowered_bus] at htrace
  refine ⟨t, ?_, hframing, htrace⟩
  rw [pulses_cons, execAll_cons_of_next (exec_low_sample d b s), hstep.cfg]
  exact execAll_cons_of_next ht _

/-- The eighth pulse: the byte is delivered. -/
theorem execAll_last_pulse {d : Device} {acc : Byte} {s : State} (h : Framing d 7 acc s) (b : Bool) :
    ∃ t, execAll (pulses s.cfg d [b]) s = .next t ∧ Delivered d (shiftIn acc b) s.bus.trace t := by
  obtain ⟨t, ht, hstep, hrises⟩ := exec_high_sample (d := d) (s := lowered d s) b (by rw [h.lowered_bus])
  have hdelivered := hstep.delivered_of_edge h.lowered hrises (decodeDevice_smp ..)
  rw [getLsbD_mosiBit_smp, h.lowered_bus] at hdelivered
  refine ⟨t, ?_, hdelivered⟩
  rw [pulses_cons, execAll_cons_of_next (exec_low_sample d b s)]
  exact execAll_cons_of_next ht _

/-- As many pulses as fill the frame, by induction on their bits. -/
theorem execAll_pulses {d : Device} {n : Nat} {acc : Byte} {s : State} (bits : List Bool) (h : Framing d n acc s)
    (hn : n < 8) (hlength : n + bits.length = 8) :
    ∃ t, execAll (pulses s.cfg d bits) s = .next t ∧ Delivered d (bits.foldl shiftIn acc) s.bus.trace t := by
  induction bits generalizing n acc s with
  | nil => simp at hlength; omega
  | cons b bits ih =>
    rw [List.length_cons] at hlength
    by_cases hlast : n = 7
    · subst hlast
      obtain rfl : bits = [] := List.eq_nil_of_length_eq_zero (by omega)
      exact execAll_last_pulse h b
    · obtain ⟨u, hu, hframing, htrace⟩ := execAll_pulse h (by omega) b bits
      rw [hu, ← htrace]
      exact ih hframing (by omega) (by omega)

/-- The state with `d` selected beforehand, the clock as it was: the first pulse from it is the one from `s`. -/
def selectedFirst (d : Device) (s : State) : State := { s with bus := busAfterSelection s.bus.prevClock (some d) s }

theorem lowered_selectedFirst (d : Device) (s : State) : lowered d (selectedFirst d s) = lowered d s := by
  by_cases h : some d = s.bus.selectedDevice
  · simp [lowered, selectedFirst, busAfterSelection, h]
  · simp [lowered, selectedFirst, busAfterSelection, h]

theorem execAll_pulses_selectedFirst (d : Device) (b : Bool) (bits : List Bool) (s : State) :
    execAll (pulses s.cfg d (b :: bits)) s = execAll (pulses s.cfg d (b :: bits)) (selectedFirst d s) := by
  have hfirst := exec_low_sample d b (selectedFirst d s)
  rw [lowered_selectedFirst] at hfirst
  rw [pulses_cons, execAll_cons_of_next (exec_low_sample d b s)]
  exact (execAll_cons_of_next hfirst _).symm

/-- Newly addressed or with no bit framed, the device starts with an empty frame. -/
theorem framing_selectedFirst {d : Device} {s : State} (hinit : s.bus.initialized = true)
    (hempty : s.bus.selectedDevice = some d → s.bus.bitCount = 0) :
    Framing d 0 (selectedFirst d s).bus.inByteAccumulator (selectedFirst d s) := by
  refine ⟨by simp [selectedFirst, hinit], by simp [selectedFirst], ?_, rfl⟩
  by_cases h : some d = s.bus.selectedDevice
  · simp [selectedFirst, h, hempty h.symm]
  · simp [selectedFirst, h]

end Sys2Proof.Machine

namespace Sys2Proof.Proofs

open Sys2Proof Sys2Proof.Machine

/-- Settles O46: eight pulses from the state with the device selected, shifting in the byte's bits. -/
theorem byteIsDeliveredMsbFirst : Obligations.ByteIsDeliveredMsbFirst := by
  unfold Obligations.ByteIsDeliveredMsbFirst
  intro d v s hinit hempty
  obtain ⟨t, hrun, hdelivered⟩ := execAll_pulses (bitsMsbFirst v) (framing_selectedFirst hinit hempty) (by omega) rfl
  rw [foldl_shiftIn_bits] at hdelivered
  obtain ⟨⟨bOut, htrace, hout⟩, hcount, hacc, hsel, hclock⟩ := hdelivered
  rw [selectedFirst, busAfterSelection_trace] at htrace
  refine ⟨t, bOut, ?_, htrace, hout, hcount, hacc, hsel, hclock⟩
  rw [byteCalls_eq_pulses, bitsMsbFirst, execAll_pulses_selectedFirst]
  exact hrun

end Sys2Proof.Proofs
end

section
/-! SUPPORT. Table words, refused words and configurations, and the ignored pins: the obligations about what decodes
(R7, R45, R48, R49). -/

namespace Sys2Proof

/-- Under the default configuration the select field of a sample is the match of its class (R45). -/
theorem and_mask_eq_selectField (w : Byte) :
    w &&& 0x0E#8 = selectField Cfg.default (sampleClass Cfg.default w) := by
  revert w; decide

/-- The eight matches differ: the class is read back from each. -/
theorem selectField_injective : Function.Injective (selectField Cfg.default) := by
  have hread : Function.LeftInverse (sampleClass Cfg.default) (selectField Cfg.default) := fun k => by
    rcases k with (_ | _ | _) | _ | _ | _ | _ | _ <;> rfl
  exact hread.injective

theorem sampleClass_default_eq_iff (w : Byte) (k : SelClass) :
    sampleClass Cfg.default w = k ↔ w &&& 0x0E#8 = selectField Cfg.default k := by
  rw [and_mask_eq_selectField, selectField_injective.eq_iff]

theorem decodeTableWord_of_sample {w : Nat} (h : w < 256) :
    decodeTableWord 8 w = some (decodeSample Cfg.default (BitVec.ofNat 8 w)) := by
  simp only [decodeTableWord, decodeBits, h, if_true]

theorem decodeTableWord_of_other {nbits w : Nat} (h : ¬ (nbits = 8 ∧ w < 256)) : decodeTableWord nbits w = none := by
  by_cases hbits : nbits = 8
  · have hw : ¬ w < 256 := fun hw => h ⟨hbits, hw⟩
    simp only [decodeTableWord, decodeBits, hbits, hw, if_true, if_false]
  · simp only [decodeTableWord, decodeBits, hbits, if_false]

/-- A configuration is refused exactly when one of the three checks of R7 fails. -/
theorem ofFields?_eq_none_iff (f : CfgFields) :
    Cfg.ofFields? f = none ↔
      ¬ f.bits.Nodup ∨ ¬ [f.line1Device, f.line2Device, f.line3Device].Nodup ∨ f.handshakeThreshold = 0 := by
  have hnone : Cfg.ofFields? f = none ↔ ¬ f.wf = true := by
    unfold Cfg.ofFields?
    split_ifs with h <;> simp [h]
  rw [hnone, CfgFields.wf, CfgFields.bitsDistinct, CfgFields.linesDistinct, CfgFields.thresholdPositive]
  simp only [Bool.and_eq_true, decide_eq_true_eq, not_and_or, or_assoc, Nat.not_le, Nat.lt_one_iff]

/-- Samples that agree on the read bits have the same device and the same levels. -/
theorem operands_of_agree {c : Cfg} {w1 w2 : Byte}
    (h : ∀ j : Fin 8, j ≠ c.unusedBit → j ≠ c.wpBit → j ≠ c.cdBit → w1.getLsbD j = w2.getLsbD j) :
    w1.getLsbD c.clkBit = w2.getLsbD c.clkBit ∧ w1.getLsbD c.mosiBit = w2.getLsbD c.mosiBit ∧
      Machine.decodeDevice c w1 = Machine.decodeDevice c w2 := by
  have hdistinct := c.bits_nodup
  simp only [CfgFields.bits, List.nodup_cons, List.mem_cons, List.not_mem_nil, or_false, not_or] at hdistinct
  obtain ⟨hclk, h1, h2, h3, hun, hwp, hcd, -⟩ := hdistinct
  have hclass : sampleClass c w1 = sampleClass c w2 := by
    simp only [sampleClass, line1Asserted, line2Asserted, line3Asserted, level,
      h c.sel1Bit (by tauto) (by tauto) (by tauto), h c.sel2Bit (by tauto) (by tauto) (by tauto),
      h c.sel3Bit (by tauto) (by tauto) (by tauto)]
  refine ⟨h _ (by tauto) (by tauto) (by tauto), h _ (by tauto) (by tauto) (by tauto), ?_⟩
  rw [decodeDevice_eq_class, decodeDevice_eq_class, hclass]

end Sys2Proof

namespace Sys2Proof.Proofs

open Sys2Proof Sys2Proof.Machine

/-- Settles O3: six closed words, decoded by evaluation. -/
theorem tableWordsDecode : Obligations.TableWordsDecode := by
  unfold Obligations.TableWordsDecode
  decide

/-- Settles O4: each row's match is the select field of its class. -/
theorem samplesMatchTheirTableRow : Obligations.SamplesMatchTheirTableRow := by
  unfold Obligations.SamplesMatchTheirTableRow
  intro w
  exact ⟨sampleClass_default_eq_iff w _, sampleClass_default_eq_iff w _, sampleClass_default_eq_iff w _,
    sampleClass_default_eq_iff w _, sampleClass_default_eq_iff w _, sampleClass_default_eq_iff w _,
    sampleClass_default_eq_iff w _, sampleClass_default_eq_iff w _⟩

/-- Settles O5: every sample decodes, and every other length or number is refused. -/
theorem exactlyTheSamplesDecode : Obligations.ExactlyTheSamplesDecode := by
  unfold Obligations.ExactlyTheSamplesDecode
  intro nbits w
  by_cases h : nbits = 8 ∧ w < 256
  · rw [h.1, decodeTableWord_of_sample h.2]
    exact iff_of_true rfl ⟨rfl, h.2⟩
  · rw [decodeTableWord_of_other h]
    exact iff_of_false (by simp) h

/-- Settles O7: a configuration is refused when one of the three checks of R7 fails. -/
theorem refusedConfigurations : Obligations.RefusedConfigurations := by
  unfold Obligations.RefusedConfigurations
  exact ofFields?_eq_none_iff

/-- Settles O39: STEP reads a sample by its levels and its device only, and its class does the same. -/
theorem ignoredPinsDoNothing : Obligations.IgnoredPinsDoNothing := by
  unfold Obligations.IgnoredPinsDoNothing
  intro w1 w2 s hagree
  obtain ⟨hclk, hmosi, hdev⟩ := operands_of_agree hagree
  have hstep : exec (.step w1) s = exec (.step w2) s := by
    rw [exec_step_eq_busTick, exec_step_eq_busTick, hclk, hmosi, hdev]
  refine ⟨hstep, ?_⟩
  rw [exec_decodeSample_eq_exec_step, exec_decodeSample_eq_exec_step, hstep]

end Sys2Proof.Proofs
end

section
/-! SUPPORT. The sub-operations run by themselves, the host operations and the sink's read: the obligations about single
instructions. -/

namespace Sys2Proof.Machine

theorem exec_reset_eq (s : State) : exec .reset s = .next (State.start s.cfg s.inbox s.draws) := rfl

theorem exec_selectDecode_eq_setDecoded (w : Byte) (s : State) :
    exec (.selectDecode w) s = .next (setDecoded (decodeDevice s.cfg w) s) := rfl

theorem exec_handshakeCount_eq_countHandshake (s : State) : exec .handshakeCount s = .next (countHandshake s) := rfl

theorem exec_frameBit_eq_frame (w : Byte) (s : State) :
    exec (.frameBit w) s = frame (w.getLsbD s.cfg.mosiBit) s := rfl

theorem exec_exchangeKbd_eq_keyboardExchange (b : Byte) (s : State) :
    exec (.exchangeKbd b) s = .next (keyboardExchange s) := rfl

theorem exec_outLatch_eq_latchOut (v : Byte) (s : State) : exec (.outLatch v) s = .next (latchOut v s) := rfl

/-- The counting decode by the three lines' assertions, each the exclusive or of its level with the polarity. -/
theorem decodeDevice_eq_match (c : Cfg) (w : Byte) :
    decodeDevice c w =
      match Bool.xor c.selActiveLow (w.getLsbD c.sel1Bit), Bool.xor c.selActiveLow (w.getLsbD c.sel2Bit),
        Bool.xor c.selActiveLow (w.getLsbD c.sel3Bit) with
      | true, false, false => some c.line1Device
      | false, true, false => some c.line2Device
      | false, false, true => some c.line3Device
      | _, _, _ => none := by
  simp only [decodeDevice, assertedDevices, line1Asserted, line2Asserted, line3Asserted, level, asserted_eq_xor]
  cases Bool.xor c.selActiveLow (w.getLsbD c.sel1Bit) <;> cases Bool.xor c.selActiveLow (w.getLsbD c.sel2Bit) <;>
    cases Bool.xor c.selActiveLow (w.getLsbD c.sel3Bit) <;> rfl

theorem framerGate_eq_true_iff (s : State) : framerGate s = true ↔
    s.wires.rising = true ∧ s.wires.consumed = false ∧ s.bus.initialized = true ∧ s.bus.selectedDevice ≠ none := by
  simp [framerGate, Option.isSome_iff_ne_none, and_assoc]

/-- What the keyboard answers, by what the slot holds (R84, R85). -/
theorem keyboardAnswer_of_empty {s : State} (h : s.bus.kbdSlot = none) : keyboardAnswer s = s.cfg.kbdNoKey := by
  simp only [keyboardAnswer, h]

theorem keyboardAnswer_of_key {s : State} {k : Byte} (hk : k ≠ 0x00#8) (h : s.bus.kbdSlot = some k) :
    keyboardAnswer s = k := by
  simp only [keyboardAnswer, h, if_neg hk]

theorem keyboardAnswer_of_zero {s : State} (h : s.bus.kbdSlot = some 0x00#8) :
    keyboardAnswer s = 0x00#8 ∨ keyboardAnswer s = s.cfg.kbdNoKey := by
  simp only [keyboardAnswer, h, if_true]
  split_ifs
  · exact .inl rfl
  · exact .inr rfl

theorem readOutByte_of_latched {s : State} {v : Byte} (h : s.bus.outByteRegister = some v) :
    readOutByte s = .ok v := by
  simp only [readOutByte, h]

theorem readOutByte_of_unwritten {s : State} (h : s.bus.outByteRegister = none) :
    readOutByte s = .error .outByteUnwritten := by
  simp only [readOutByte, h]

end Sys2Proof.Machine

namespace Sys2Proof.Proofs

open Sys2Proof Sys2Proof.Machine

/-- Settles O8: the first call of the inbox is fetched and decoded; a placed word is that call. -/
theorem stepRunsTheDecodedInstruction : Obligations.StepRunsTheDecodedInstruction := by
  unfold Obligations.StepRunsTheDecodedInstruction
  refine ⟨fun s w rest h => step_of_call h, fun s rest h => step_of_call h, fun s b rest h => step_of_call h,
    fun s w => ?_⟩
  exact step_of_call (placeSample_inbox (BitVec.ofNat 8 w) s)

/-- Settles O9: with no call nothing is fetched. -/
theorem noCallNoChange : Obligations.NoCallNoChange := by
  unfold Obligations.NoCallNoChange
  exact fun s => step_of_empty

/-- Settles O10: RESET answers a session start. -/
theorem resetStartsASession : Obligations.ResetStartsASession := by
  unfold Obligations.ResetStartsASession
  exact exec_reset_eq

/-- Settles O11: both sides are written out in the model. -/
theorem resetStateHoldsTheSpecValues : Obligations.ResetStateHoldsTheSpecValues := by
  unfold Obligations.ResetStateHoldsTheSpecValues
  exact ⟨rfl, rfl⟩

/-- Settles O12: a push is one write of the slot, and a second push writes it again. -/
theorem keyPushOverwritesTheSlot : Obligations.KeyPushOverwritesTheSlot := by
  unfold Obligations.KeyPushOverwritesTheSlot
  have hpush (b : Byte) (s : State) :
      exec (.kbdPush b) s = .next { s with bus := { s.bus with kbdSlot := some b } } := rfl
  refine ⟨hpush, fun a b s => ?_⟩
  rw [execAll_cons_of_next (hpush a s), execAll_cons_of_next (hpush b _), hpush]
  rfl

/-- Settles O18: the decoded device by the three lines' assertions. -/
theorem selectDecodeResult : Obligations.SelectDecodeResult := by
  unfold Obligations.SelectDecodeResult
  intro w s
  rw [exec_selectDecode_eq_setDecoded, decodeDevice_eq_match]
  rfl

/-- Settles O19: the same device, and a change. -/
theorem selectTransitionResult : Obligations.SelectTransitionResult := by
  unfold Obligations.SelectTransitionResult
  intro s
  rw [exec_selectTransition_eq_transition]
  split_ifs with h
  · rw [transition_of_same h]
  · rw [transition_of_change h]

/-- Settles O23: the threshold edge, an edge counted, and no edge to count. -/
theorem handshakeCountResult : Obligations.HandshakeCountResult := by
  unfold Obligations.HandshakeCountResult
  intro s
  rw [exec_handshakeCount_eq_countHandshake]
  by_cases hedge : s.wires.rising = true ∧ s.bus.initialized = false
  · by_cases hn : s.bus.handshakeEdgeCount + 1 = s.cfg.handshakeThreshold
    · rw [if_pos hedge, if_pos hn, countHandshake_of_threshold hedge hn]
    · rw [if_pos hedge, if_neg hn, countHandshake_of_count hedge hn]
  · rw [if_neg hedge, countHandshake_of_inert hedge]

/-- Settles O24: the completion's writes, whether or not it marks the SD card. -/
theorem handshakeCompleteResult : Obligations.HandshakeCompleteResult := by
  unfold Obligations.HandshakeCompleteResult
  exact fun s => congrArg Host.Outcome.next (completeHandshake_eq s)

/-- Settles O28: the gate closed, a bit short of the eighth, and the eighth, which completes the byte. -/
theorem frameBitResult : Obligations.FrameBitResult := by
  unfold Obligations.FrameBitResult
  simp only [exec_frameBit_eq_frame, ← shiftIn_eq_ofNat]
  refine ⟨fun w s hclosed => ?_, fun w s hrise hfree hinit hdev h => ?_, fun w s hrise hfree hinit hdev hseven => ?_⟩
  · rw [← framerGate_eq_true_iff, Bool.not_eq_true] at hclosed
    exact frame_of_closed hclosed _
  · have hgate := (framerGate_eq_true_iff s).mpr ⟨hrise, hfree, hinit, hdev⟩
    exact frame_of_bit hgate (by omega) _
  · have hgate := (framerGate_eq_true_iff s).mpr ⟨hrise, hfree, hinit, hdev⟩
    obtain ⟨d, hd⟩ := Option.ne_none_iff_exists'.mp hdev
    rw [frame_of_eighth hgate (by simp [hseven]), exec_byteComplete_eq_completeByte,
      completeByte_of_device (d := d) (by exact hd)]
    exact ⟨_, rfl, rfl, rfl⟩

/-- Settles O30: each EXCHANGE instruction is its device's draw. -/
theorem externalExchangeResults : Obligations.ExternalExchangeResults := by
  unfold Obligations.ExternalExchangeResults
  exact fun b s => ⟨rfl, rfl⟩

/-- Settles O31: the keyboard's answer by what the slot holds. -/
theorem keyboardExchangeResult : Obligations.KeyboardExchangeResult := by
  unfold Obligations.KeyboardExchangeResult
  intro b s
  refine ⟨keyboardAnswer s, if s.bus.kbdSlot = some 0x00#8 then s.draws + 1 else s.draws,
    exec_exchangeKbd_eq_keyboardExchange b s, fun h => ?_, fun k hk h => ?_, fun h => ?_⟩
  · exact ⟨keyboardAnswer_of_empty h, by simp [h]⟩
  · exact ⟨keyboardAnswer_of_key hk h, by simp [h, hk]⟩
  · exact ⟨keyboardAnswer_of_zero h, if_pos h⟩

/-- Settles O32: an exchange empties the slot, whatever is sent. -/
theorem keyIsPoppedOnceWhateverIsSent : Obligations.KeyIsPoppedOnceWhateverIsSent := by
  unfold Obligations.KeyIsPoppedOnceWhateverIsSent
  refine ⟨fun b1 b2 s => rfl, fun b1 b2 s => ⟨keyboardExchange (keyboardExchange s), rfl, ?_⟩⟩
  rw [keyboardExchange_wires, keyboardAnswer_of_empty (by rw [keyboardExchange_bus]), keyboardExchange_cfg]

/-- Settles O33: OUT_LATCH is the latch and its push. -/
theorem outLatchResult : Obligations.OutLatchResult := by
  unfold Obligations.OutLatchResult
  exact exec_outLatch_eq_latchOut

/-- Settles O34: a latch writes the register the sink reads; at a session start it is unwritten. -/
theorem sinkReadsTheLatchedByte : Obligations.SinkReadsTheLatchedByte := by
  unfold Obligations.SinkReadsTheLatchedByte
  refine ⟨fun v s t h => ?_, fun s => readOutByte_of_unwritten, fun c calls n => readOutByte_of_unwritten rfl⟩
  rw [exec_outLatch_eq_latchOut] at h
  cases h
  exact readOutByte_of_latched (by rw [latchOut_bus])

end Sys2Proof.Proofs
end
